-- ==== Sys2Proof/Word.lean ====
section
/-! DEFINITION. The word, byte and register-index types of the block (spec/00_scope.md R5, R7; spec/10_state.md R30). -/

namespace Sys2Proof

/-- A 16-bit value: the unit of addressing, of storage and of the registers (R5, R11). -/
abbrev Word := BitVec 16

/-- An 8-bit value: a character sent to the host, a key code, a trap vector (R6, R107). -/
abbrev Byte := BitVec 8

/-- The number of a general register; a 3-bit field, so every value names one of R0..R7 (R30, R105). -/
abbrev Reg := BitVec 3

end Sys2Proof
end

