-- ==== Sys2Proof/Syntax.lean ====
section
/-! DEFINITION. The instructions: one constructor per row of spec/opcode_table.json, in the table's order.

The bits a handler never reads (spec/30_encoding.md R108) are no operands, with one exception: the three rows that fault
record the whole instruction word in `fault_ir` (spec/60_exceptions.md R302), so their remaining bits are operands here
(log entry 16). -/

namespace Sys2Proof

/-- An instruction (R102, R109, R113). Field names as in R11. -/
inductive Instr where
  /-- BR: mask bits n, z, p and PCoffset9 (R170). -/
  | br (n z p : BitVec 1) (off : BitVec 9)
  /-- ADD, register form: DR, SR1, SR2 (R140). -/
  | addReg (dr sr1 sr2 : Reg)
  /-- ADD, immediate form: DR, SR1, imm5 (R141). -/
  | addImm (dr sr1 : Reg) (imm : BitVec 5)
  /-- LD: DR, PCoffset9 (R190). -/
  | ld (dr : Reg) (off : BitVec 9)
  /-- ST: SR, PCoffset9 (R210). -/
  | st (sr : Reg) (off : BitVec 9)
  /-- JSR: PCoffset11 (R172). -/
  | jsr (off : BitVec 11)
  /-- JSRR: BaseR (R173). -/
  | jsrr (base : Reg)
  /-- AND, register form: DR, SR1, SR2 (R142). -/
  | andReg (dr sr1 sr2 : Reg)
  /-- AND, immediate form: DR, SR1, imm5 (R143). -/
  | andImm (dr sr1 : Reg) (imm : BitVec 5)
  /-- LDR: DR, BaseR, offset6 (R192). -/
  | ldr (dr base : Reg) (off : BitVec 6)
  /-- STR: SR, BaseR, offset6 (R212). -/
  | str (sr base : Reg) (off : BitVec 6)
  /-- RTI, which faults; the ignored bits 11..0 survive in `fault_ir` (R270, R302). -/
  | rti (rest : BitVec 12)
  /-- NOT: DR, SR (R144). -/
  | not (dr sr : Reg)
  /-- LDI: DR, PCoffset9 (R191). -/
  | ldi (dr : Reg) (off : BitVec 9)
  /-- STI: SR, PCoffset9 (R211). -/
  | sti (sr : Reg) (off : BitVec 9)
  /-- JMP, and RET where BaseR is R7: BaseR (R171). -/
  | jmp (base : Reg)
  /-- The reserved opcode, which faults; the ignored bits 11..0 survive in `fault_ir` (R271, R302). -/
  | reserved (rest : BitVec 12)
  /-- LEA: DR, PCoffset9 (R193). -/
  | lea (dr : Reg) (off : BitVec 9)
  /-- TRAP x20, GETC (R232). -/
  | trapGetc
  /-- TRAP x21, OUT (R233). -/
  | trapOut
  /-- TRAP x22, PUTS (R234). -/
  | trapPuts
  /-- TRAP x23, IN (R235). -/
  | trapIn
  /-- TRAP x24, PUTSP (R236). -/
  | trapPutsp
  /-- TRAP x25, HALT (R237). -/
  | trapHalt
  /-- TRAP with any other vector, which faults; bits 11..8 survive in `fault_ir` (R238, R302). -/
  | trapUndefined (high : BitVec 4) (vector : Byte)
  deriving DecidableEq, Repr

end Sys2Proof
end

