-- ==== Sys2Proof/WellFormed.lean ====
section
/-! DEFINITION. Which terms of `Instr` stand for an instruction word. Every operand type holds exactly its field's values
(spec/30_encoding.md R105, R106), so there is one check: the row 'TRAP (undefined vector)' excludes the six vectors of
the services (spec/44_trap.md R238). -/

namespace Sys2Proof

/-- Is `v` one of the six vectors 0x20 to 0x25 that name a service (R230)? -/
def isServiceVector (v : Byte) : Bool := decide (0x20#8 ≤ v) && decide (v ≤ 0x25#8)

/-- A well-formed instruction: the undefined-vector row does not hold a service's vector (R238). -/
def Instr.wellFormed : Instr → Bool
  | .trapUndefined _ v => !isServiceVector v
  | _ => true

end Sys2Proof
end

