-- ==== Sys2Proof/Decode.lean ====
section
/-! DEFINITION. The decoder, total on the 16-bit words (spec/30_encoding.md R111), and after it the encoder and the
opcode table. The layout is the LC-3's, adopted by the spec as decision D1 (R101 to R106): PRESUMED, unsafe, log entry 2.

No word is refused: the words the spec calls illegal (R109) decode to the three rows that fault. What is refused by name
is an input that is no 16-bit word (`DecodeError`). -/

namespace Sys2Proof

/-! ## The layout, in one place (R101, R102) -/

/-- The sixteen handlers that the opcode field selects (R102). -/
inductive Opcode where
  | br | add | ld | st | jsr | and | ldr | str | rti | not | ldi | sti | jmp | reserved | lea | trap
  deriving DecidableEq, Repr

/-- The opcode numbers (R102). -/
def Opcode.code : Opcode → BitVec 4
  | .br => 0 | .add => 1 | .ld => 2 | .st => 3
  | .jsr => 4 | .and => 5 | .ldr => 6 | .str => 7
  | .rti => 8 | .not => 9 | .ldi => 10 | .sti => 11
  | .jmp => 12 | .reserved => 13 | .lea => 14 | .trap => 15

/-- The handler a 4-bit opcode field selects: all sixteen values are assigned (R102). -/
def Opcode.ofCode (c : BitVec 4) : Opcode :=
  match c.toNat with
  | 0 => .br | 1 => .add | 2 => .ld | 3 => .st
  | 4 => .jsr | 5 => .and | 6 => .ldr | 7 => .str
  | 8 => .rti | 9 => .not | 10 => .ldi | 11 => .sti
  | 12 => .jmp | 13 => .reserved | 14 => .lea | _ => .trap

/-- `ir[15:12]`: the opcode (R100). -/
def opcodeField (w : Word) : BitVec 4 := w.extractLsb' 12 4

/-- `ir[11:9]`: DR, or SR of a store (R105). -/
def drField (w : Word) : Reg := w.extractLsb' 9 3

/-- `ir[8:6]`: SR1, SR of NOT, or BaseR (R105). -/
def baseField (w : Word) : Reg := w.extractLsb' 6 3

/-- `ir[2:0]`: SR2 (R105). -/
def sr2Field (w : Word) : Reg := w.extractLsb' 0 3

/-- `ir[11]`: BR's n bit (R106), and the long-jump bit of opcode 4 (R104). -/
def bit11 (w : Word) : BitVec 1 := w.extractLsb' 11 1

/-- `ir[10]`: BR's z bit (R106). -/
def bit10 (w : Word) : BitVec 1 := w.extractLsb' 10 1

/-- `ir[9]`: BR's p bit (R106). -/
def bit9 (w : Word) : BitVec 1 := w.extractLsb' 9 1

/-- `ir[5]`: the immediate-mode bit of ADD and AND (R103). -/
def bit5 (w : Word) : BitVec 1 := w.extractLsb' 5 1

/-- `ir[4:0]`: imm5 (R106). -/
def imm5Field (w : Word) : BitVec 5 := w.extractLsb' 0 5

/-- `ir[5:0]`: offset6 (R106). -/
def offset6Field (w : Word) : BitVec 6 := w.extractLsb' 0 6

/-- `ir[8:0]`: PCoffset9 (R106). -/
def pcOffset9Field (w : Word) : BitVec 9 := w.extractLsb' 0 9

/-- `ir[10:0]`: PCoffset11 (R106). -/
def pcOffset11Field (w : Word) : BitVec 11 := w.extractLsb' 0 11

/-- `ir[7:0]`: trapvect8 (R107). -/
def vectorField (w : Word) : Byte := w.extractLsb' 0 8

/-- `ir[11:8]` of a TRAP word, which takes no part in selecting the service (R107). -/
def trapHighField (w : Word) : BitVec 4 := w.extractLsb' 8 4

/-- `ir[11:0]`, ignored by RTI and the reserved opcode but kept in `fault_ir` (R302). -/
def restField (w : Word) : BitVec 12 := w.extractLsb' 0 12

/-! ## The decoder -/

/-- The rows of opcode 15, by the vector in `ir[7:0]` (R107, R230). -/
def decodeTrap (high : BitVec 4) (v : Byte) : Instr :=
  if v = 0x20#8 then .trapGetc
  else if v = 0x21#8 then .trapOut
  else if v = 0x22#8 then .trapPuts
  else if v = 0x23#8 then .trapIn
  else if v = 0x24#8 then .trapPutsp
  else if v = 0x25#8 then .trapHalt
  else .trapUndefined high v

/-- The instruction of a word (R111). Bits marked `x` in R101 are ignored (R108). -/
def decode (w : Word) : Instr :=
  match Opcode.ofCode (opcodeField w) with
  | .br => .br (bit11 w) (bit10 w) (bit9 w) (pcOffset9Field w)
  | .add =>
    if bit5 w = 1#1 then .addImm (drField w) (baseField w) (imm5Field w)
    else .addReg (drField w) (baseField w) (sr2Field w)
  | .ld => .ld (drField w) (pcOffset9Field w)
  | .st => .st (drField w) (pcOffset9Field w)
  | .jsr => if bit11 w = 1#1 then .jsr (pcOffset11Field w) else .jsrr (baseField w)
  | .and =>
    if bit5 w = 1#1 then .andImm (drField w) (baseField w) (imm5Field w)
    else .andReg (drField w) (baseField w) (sr2Field w)
  | .ldr => .ldr (drField w) (baseField w) (offset6Field w)
  | .str => .str (drField w) (baseField w) (offset6Field w)
  | .rti => .rti (restField w)
  | .not => .not (drField w) (baseField w)
  | .ldi => .ldi (drField w) (pcOffset9Field w)
  | .sti => .sti (drField w) (pcOffset9Field w)
  | .jmp => .jmp (baseField w)
  | .reserved => .reserved (restField w)
  | .lea => .lea (drField w) (pcOffset9Field w)
  | .trap => decodeTrap (trapHighField w) (vectorField w)

/-- Why an input is no instruction word (R100: an instruction is exactly one 16-bit word). -/
inductive DecodeError where
  /-- No word is left in the stream. -/
  | noWord
  /-- One byte is left where a word's two bytes are needed. -/
  | halfWord
  deriving DecidableEq, Repr

/-- The first instruction of a byte stream in the image's byte order, first byte bits 15..8 (R68 a, R81), with the rest
of the stream. -/
def decodeBytes : List Byte → Except DecodeError (Instr × List Byte)
  | [] => .error .noWord
  | [_] => .error .halfWord
  | hi :: lo :: rest => .ok (decode (hi ++ lo), rest)

/-- The instruction the decoder reads from an opcode-table word of `nbits` bits whose value is `w`; none where the
number is wider than `nbits` or than the one word an instruction has (R100). -/
def decodeTableWord (nbits w : Nat) : Option Instr :=
  if nbits ≤ 16 ∧ w < 2 ^ nbits then some (decode (BitVec.ofNat 16 w)) else none

/-! ## The encoder -/

/-- A field of an instruction word with its lowest bit at bit `lo`, every other bit clear (R101). -/
def place {n : Nat} (field : BitVec n) (lo : Nat) : Word := field.setWidth 16 <<< lo

/-- The word of an instruction (R101). Bits marked `x` take the LC-3's fixed values, ones in NOT and zeros elsewhere,
as in the spec's own examples (R101, R113; log entry 12). -/
def encode : Instr → Word
  | .br n z p off => place Opcode.br.code 12 ||| place n 11 ||| place z 10 ||| place p 9 ||| place off 0
  | .addReg d a b => place Opcode.add.code 12 ||| place d 9 ||| place a 6 ||| place b 0
  | .addImm d a i => place Opcode.add.code 12 ||| place d 9 ||| place a 6 ||| place 1#1 5 ||| place i 0
  | .ld d off => place Opcode.ld.code 12 ||| place d 9 ||| place off 0
  | .st r off => place Opcode.st.code 12 ||| place r 9 ||| place off 0
  | .jsr off => place Opcode.jsr.code 12 ||| place 1#1 11 ||| place off 0
  | .jsrr b => place Opcode.jsr.code 12 ||| place b 6
  | .andReg d a b => place Opcode.and.code 12 ||| place d 9 ||| place a 6 ||| place b 0
  | .andImm d a i => place Opcode.and.code 12 ||| place d 9 ||| place a 6 ||| place 1#1 5 ||| place i 0
  | .ldr d b off => place Opcode.ldr.code 12 ||| place d 9 ||| place b 6 ||| place off 0
  | .str r b off => place Opcode.str.code 12 ||| place r 9 ||| place b 6 ||| place off 0
  | .rti rest => place Opcode.rti.code 12 ||| place rest 0
  | .not d a => place Opcode.not.code 12 ||| place d 9 ||| place a 6 ||| place 0b111111#6 0
  | .ldi d off => place Opcode.ldi.code 12 ||| place d 9 ||| place off 0
  | .sti r off => place Opcode.sti.code 12 ||| place r 9 ||| place off 0
  | .jmp b => place Opcode.jmp.code 12 ||| place b 6
  | .reserved rest => place Opcode.reserved.code 12 ||| place rest 0
  | .lea d off => place Opcode.lea.code 12 ||| place d 9 ||| place off 0
  | .trapGetc => place Opcode.trap.code 12 ||| place 0x20#8 0
  | .trapOut => place Opcode.trap.code 12 ||| place 0x21#8 0
  | .trapPuts => place Opcode.trap.code 12 ||| place 0x22#8 0
  | .trapIn => place Opcode.trap.code 12 ||| place 0x23#8 0
  | .trapPutsp => place Opcode.trap.code 12 ||| place 0x24#8 0
  | .trapHalt => place Opcode.trap.code 12 ||| place 0x25#8 0
  | .trapUndefined high v => place Opcode.trap.code 12 ||| place high 8 ||| place v 0

/-! ## The opcode table -/

/-- One row of spec/opcode_table.json: a word `w` is of the row when `w &&& mask = pattern`. -/
structure OpcodeRow where
  mnemonic : String
  mask : Word
  pattern : Word
  deriving DecidableEq, Repr

/-- Does a word match a row? -/
def rowMatches (r : OpcodeRow) (w : Word) : Bool := w &&& r.mask == r.pattern

/-- The row of an instruction: mnemonic, mask and match as the table has them. -/
def rowOf : Instr → OpcodeRow
  | .br .. => ⟨"BR", 0xF000, 0x0000⟩
  | .addReg .. => ⟨"ADD", 0xF020, 0x1000⟩
  | .addImm .. => ⟨"ADD", 0xF020, 0x1020⟩
  | .ld .. => ⟨"LD", 0xF000, 0x2000⟩
  | .st .. => ⟨"ST", 0xF000, 0x3000⟩
  | .jsr .. => ⟨"JSR", 0xF800, 0x4800⟩
  | .jsrr .. => ⟨"JSRR", 0xF800, 0x4000⟩
  | .andReg .. => ⟨"AND", 0xF020, 0x5000⟩
  | .andImm .. => ⟨"AND", 0xF020, 0x5020⟩
  | .ldr .. => ⟨"LDR", 0xF000, 0x6000⟩
  | .str .. => ⟨"STR", 0xF000, 0x7000⟩
  | .rti .. => ⟨"RTI", 0xF000, 0x8000⟩
  | .not .. => ⟨"NOT", 0xF000, 0x9000⟩
  | .ldi .. => ⟨"LDI", 0xF000, 0xA000⟩
  | .sti .. => ⟨"STI", 0xF000, 0xB000⟩
  | .jmp .. => ⟨"JMP", 0xF000, 0xC000⟩
  | .reserved .. => ⟨"RESERVED", 0xF000, 0xD000⟩
  | .lea .. => ⟨"LEA", 0xF000, 0xE000⟩
  | .trapGetc => ⟨"TRAP_GETC", 0xF0FF, 0xF020⟩
  | .trapOut => ⟨"TRAP_OUT", 0xF0FF, 0xF021⟩
  | .trapPuts => ⟨"TRAP_PUTS", 0xF0FF, 0xF022⟩
  | .trapIn => ⟨"TRAP_IN", 0xF0FF, 0xF023⟩
  | .trapPutsp => ⟨"TRAP_PUTSP", 0xF0FF, 0xF024⟩
  | .trapHalt => ⟨"TRAP_HALT", 0xF0FF, 0xF025⟩
  | .trapUndefined .. => ⟨"TRAP__undefined_vector", 0xF000, 0xF000⟩

/-- The rows in the table's order. The last one matches only when no service's row does (the table's note), so the
FIRST row that matches a word is its row. -/
def opcodeTable : List OpcodeRow :=
  [.br 0 0 0 0, .addReg 0 0 0, .addImm 0 0 0, .ld 0 0, .st 0 0, .jsr 0, .jsrr 0, .andReg 0 0 0, .andImm 0 0 0,
   .ldr 0 0 0, .str 0 0 0, .rti 0, .not 0 0, .ldi 0 0, .sti 0 0, .jmp 0, .reserved 0, .lea 0 0,
   .trapGetc, .trapOut, .trapPuts, .trapIn, .trapPutsp, .trapHalt, .trapUndefined 0 0].map rowOf

end Sys2Proof
end

