-- ==== Sys2Proof/Config.lean ====
section
/-! DEFINITION. What an implementation fixes (spec/00_scope.md R5): the entry address, the named parameters that have a
default (their defaults stand in Machine/DeviceMap.lean) and the two texts the spec leaves OPEN. -/

namespace Sys2Proof.Config

/-- PC_RESET (R5, R46): where the first fetch is. -/
def pcReset : Word := 0x3000#16

/-- The named parameters that a model takes with a default (R5, R46, R63; spec/93_implementation_defined.md U11 to U13).
A state carries them (`State.params`) and nothing changes them: log entry 27. -/
structure Params where
  /-- KBSR_ADDR, the address of the keyboard status cell (R63). -/
  kbsrAddr : Word
  /-- KBDR_ADDR, the address of the keyboard data cell (R63). -/
  kbdrAddr : Word
  /-- KBSR_READY, "high bit set": what a poll that finds a key puts into the status cell (R64). -/
  kbsrReady : Word
  /-- GPR_RESET, what R0..R7 hold after reset (R46). -/
  gprReset : Word
  /-- COND_RESET, what the flags hold after reset (R46). -/
  condReset : BitVec 3
  deriving DecidableEq, Repr

/-- IN_PROMPT, OPEN (R5, R235; decision D20): the bytes IN sends before it reads.
It has no value in this model, so a claim holds for every prompt: log entry 17. -/
opaque inPrompt : List Byte

/-- HALT_MESSAGE, OPEN (R5, R237; decision D21): the bytes HALT sends before its flush.
It has no value in this model, so a claim holds for every message: log entry 17. -/
opaque haltMessage : List Byte

end Sys2Proof.Config
end

