-- ==== Sys2Proof/Machine/DeviceMap.lean ====
section
/-! DEFINITION. The defaults of the named parameters (spec/00_scope.md R5): the two keyboard device registers among the
memory cells (spec/20_memory.md R63, R71), the ready value and the reset values. -/

namespace Sys2Proof.Machine

/-- The parameters' defaults: the addresses are decision D5 and the ready value D6 (PRESUMED, unsafe, log entry 5), the
register value D4 and the flag ZERO D3 (DESIGN CHOICE of the spec, unsafe, log entry 4). -/
def defaultParams : Config.Params where
  kbsrAddr := 0xFE00#16
  kbdrAddr := 0xFE02#16
  kbsrReady := 0x8000#16
  gprReset := 0x0000#16
  condReset := 0b010#3

end Sys2Proof.Machine
end

