-- ==== Sys2Proof/Machine/State.lean ====
section
/-! DEFINITION. The state of the machine as plain data, its value at reset, and the names a step may stop with
(spec/10_state.md; INVENTORY.md lists every field). -/

namespace Sys2Proof.Machine

/-- The engine state (R40). -/
inductive Engine where
  /-- After `reset`: nothing executes; `preload` and `start` are accepted (R341). -/
  | ready
  /-- Instructions are fetched and executed (R343). -/
  | running
  /-- After the HALT service; terminal (R324, R345). -/
  | halted
  /-- After a fault; terminal (R324, R345). -/
  | faulted
  deriving DecidableEq, Repr

/-- A service whose TRAP the engine has executed and not finished (log entries 8 and 9). -/
inductive Service where
  /-- GETC, waiting in `in_get` (R260, R324 c). -/
  | getc
  /-- IN, its prompt sent, waiting in `in_get` (R235, R260, R324 c). -/
  | input
  /-- PUTS on a string without end, between two rounds of the address space (decision D27). -/
  | puts
  /-- PUTSP on a string without end, between two rounds of the address space (decision D27). -/
  | putsp
  deriving DecidableEq, Repr

/-- What the block sends on the host's output channel (R6, R261; decision D22). -/
inductive OutEvent where
  /-- `out_put b`. -/
  | byte (b : Byte)
  /-- `out_flush`. -/
  | flush
  deriving DecidableEq, Repr

/-- Memory as (word address, word) pairs, addresses strictly rising, no entry holding 0x0000, which is what an unlisted
address reads as (R46, R60). The cell is the spec's 16-bit word and no byte: DESIGN CHOICE, safe, log entry 1. -/
abbrev Memory := List (Nat × Word)

/-- The whole state of the machine (R30 to R46). -/
structure State where
  /-- R0..R7 (R30). -/
  regs : Vector Word 8
  /-- The program counter, a word address (R33). -/
  pc : Word
  /-- The condition flags: bit 0 POSITIVE, bit 1 ZERO, bit 2 NEGATIVE (R36; log entry 3). -/
  cond : BitVec 3
  /-- The engine state (R40). -/
  engine : Engine
  /-- 1 RTI, 2 reserved opcode, 3 undefined trap vector, 0 no fault (R41; log entry 15). -/
  faultCause : BitVec 8
  /-- Address of the faulting instruction (R41; log entry 15). -/
  faultPc : Word
  /-- The faulting instruction word (R41; log entry 15). -/
  faultIr : Word
  /-- The 65536 cells, KBSR and KBDR among them (R60, R63). -/
  mem : Memory
  /-- The host's input queue as the block will see it, next first: `some c` a key code, `none` a moment at which no key
  is pending; past its end no key comes (R45 b, R262; log entry 7). -/
  keys : List (Option Byte)
  /-- What the block has sent, in order (R45 c, R261; log entry 18). -/
  output : List OutEvent
  /-- The service the engine is inside, if its TRAP has not ended (R260; log entries 8 and 9). -/
  service : Option Service
  /-- The machine's parameters, the same in every state of a run (R5, R63; log entry 27). -/
  params : Config.Params
  deriving DecidableEq, Repr

/-- No step of this machine stops with a model's fault: the type is empty, and Lean knows it. The block's own faults
(R301) are next states in which `engine` is `faulted`; a service that never ends (decision D27) keeps stepping
(log entry 9). -/
inductive Fault where
  deriving DecidableEq, Repr

/-- Why the model gives a term no meaning. -/
inductive Refusal where
  /-- Raised by an arm of `exec` whose instruction has no meaning yet. Safe: nothing is claimed. No arm raises it now. -/
  | notModelled (mnemonic : String)
  /-- Raised by the meaning of the row 'TRAP (undefined vector)' for a term that holds a service's vector: no instruction
  word decodes to such a term, so no step raises it. Safe: log entry 23. -/
  | illFormed (mnemonic : String)
  deriving DecidableEq, Repr

/-- The machine with parameters `p` right after `reset` (R46, R340). The host's channels, no state of the block, are
empty (log entries 7 and 18). -/
def State.resetWith (p : Config.Params) : State where
  regs := Vector.replicate 8 p.gprReset
  pc := Config.pcReset
  cond := p.condReset
  engine := .ready
  faultCause := 0#8
  faultPc := 0x0000#16
  faultIr := 0x0000#16
  mem := []
  keys := []
  output := []
  service := none
  params := p

/-- The machine with the default parameters right after `reset` (R5, R46; log entries 4 and 5). -/
def State.reset : State := State.resetWith defaultParams

end Sys2Proof.Machine
end

