-- ==== Sys2Proof/Machine/Memory.lean ====
section
/-! DEFINITION. The 65536-cell memory as a sorted list of cells (spec/20_memory.md R60; log entry 1). -/

namespace Sys2Proof.Machine

/-- What a cell that is not listed reads as: memory is zero at reset (R46, R60). -/
def unlistedCell : Word := 0x0000#16

/-- The cell at word address `a`. -/
def Memory.read (m : Memory) (a : Nat) : Word :=
  match m with
  | [] => unlistedCell
  | (k, v) :: rest => if k = a then v else Memory.read rest a

/-- `m` without its entries for address `a`. -/
def Memory.erase (m : Memory) (a : Nat) : Memory := m.filter (fun c => c.1 != a)

/-- `m` with the entry `(a, v)` before the first entry of a greater address. -/
def Memory.insert (m : Memory) (a : Nat) (v : Word) : Memory :=
  match m with
  | [] => [(a, v)]
  | c :: rest => if a < c.1 then (a, v) :: c :: rest else c :: Memory.insert rest a v

/-- `m` with the cell at `a` holding `v`; an entry that equals the unlisted cell is dropped. -/
def Memory.write (m : Memory) (a : Nat) (v : Word) : Memory :=
  if v = unlistedCell then m.erase a else (m.erase a).insert a v

/-- The canonical form: addresses below 65536 and strictly rising, no entry equal to the unlisted cell. -/
def Memory.wf : Memory → Bool
  | [] => true
  | (k, v) :: rest =>
    decide (k < 65536) && decide (v ≠ unlistedCell) && rest.all (fun c => decide (k < c.1)) && Memory.wf rest

end Sys2Proof.Machine
end

