-- ==== Sys2Proof/Machine/Ops.lean ====
section
/-! DEFINITION. The named operations over registers, memory, the host's channels and the engine state: the pseudocode
primitives of spec/00_scope.md R10, taking a fault (spec/60_exceptions.md R302) and fetching (spec/30_encoding.md R111). -/

namespace Sys2Proof.Machine

/-! ## Registers (R30, R33) -/

/-- `x[i]`: read general register Ri (R30). -/
def State.reg (s : State) (i : Reg) : Word := s.regs[i.toNat]'i.isLt

/-- `x[i] <- v`: write general register Ri; no register is hardwired (R30). -/
def State.setReg (s : State) (i : Reg) (v : Word) : State := { s with regs := s.regs.set i.toNat v i.isLt }

/-- `pc <- v` (R33). -/
def State.setPc (s : State) (v : Word) : State := { s with pc := v }

/-! ## The host's output channel (R6, R261) -/

/-- `out_put` of each byte in order; output never blocks (decision D26, log entry 18). -/
def State.putBytes (s : State) (bs : List Byte) : State := { s with output := s.output ++ bs.map OutEvent.byte }

/-- `out_flush`: a mark in the log (R261). -/
def State.putFlush (s : State) : State := { s with output := s.output ++ [OutEvent.flush] }

/-! ## The host's input channel (R6, R262; log entries 6 and 7) -/

/-- `in_poll()`: "no key" or one pending key code, consumed; it does not wait (R64, decisions D7, D8). -/
def inPoll (s : State) : Option Byte × State :=
  match s.keys with
  | [] => (none, s)
  | k :: rest => (k, { s with keys := rest })

/-- The next key code of the host's queue and what is left of the queue; the moments with no key pending pass. -/
def takeKey : List (Option Byte) → Option (Byte × List (Option Byte))
  | [] => none
  | none :: rest => takeKey rest
  | some c :: rest => some (c, rest)

/-- `in_get()`: one key code, consumed; none where the host supplies no more, and the engine waits (R260). -/
def inGet (s : State) : Option (Byte × State) :=
  match takeKey s.keys with
  | none => none
  | some (c, rest) => some (c, { s with keys := rest })

/-- `zext_N(f)`: zero extension of an N-bit field to 16 bits (R9). -/
def zext {n : Nat} (f : BitVec n) : Word := f.setWidth 16

/-- `zext_8(c)`: a key code as a word (R9, decision D9). -/
def keyWord (c : Byte) : Word := zext c

/-! ## Memory (R64, R66, R67) -/

/-- `StoreRead(a)`: plain read, no side effect at any address (R67). -/
def State.storeRead (s : State) (a : Word) : Word := s.mem.read a.toNat

/-- `MemWrite(a, 1, v)`: plain write at every address, the device cells included (R66). -/
def State.memWrite (s : State) (a v : Word) : State := { s with mem := s.mem.write a.toNat v }

/-- The side effect of a read of KBSR: ask the host for a key, and set the status and data cells (R64). -/
def pollKeyboard (s : State) : State :=
  match (inPoll s).1 with
  | some c => ((inPoll s).2.memWrite s.params.kbsrAddr s.params.kbsrReady).memWrite s.params.kbdrAddr (keyWord c)
  | none => (inPoll s).2.memWrite s.params.kbsrAddr 0x0000#16

/-- What a read at `a` does before it returns: the poll at KBSR, nothing elsewhere (R64, R65). -/
def readEffect (a : Word) (s : State) : State := if a = s.params.kbsrAddr then pollKeyboard s else s

/-- `MemRead(a, 1)`: the word read and the state after it (R64). -/
def memRead (a : Word) (s : State) : Word × State := ((readEffect a s).storeRead a, readEffect a s)

/-! ## Faults (R300 to R306) -/

/-- The three causes of a fault (R301). -/
inductive FaultCause where
  | rti | reserved | badTrap
  deriving DecidableEq, Repr

/-- The code of a cause in `fault_cause` (R41, R301; decision D15, log entry 15). -/
def FaultCause.code : FaultCause → BitVec 8
  | .rti => 1#8
  | .reserved => 2#8
  | .badTrap => 3#8

/-- `raise Fault(cause)` by the instruction word `ir`, after the pre-increment of pc: the fault record is written and the
engine stops; registers, flags, memory, pc and the host's channels keep their values (R302). There is no return from a
fault (R305): only `hostReset` of Machine/HostPort.lean leaves Faulted. -/
def raiseFault (cause : FaultCause) (ir : Word) (s : State) : State :=
  { s with faultCause := cause.code, faultPc := s.pc - 1#16, faultIr := ir, engine := .faulted }

/-! ## The engine (R40, R111, R341) -/

/-- `state <- Halted` (R237). -/
def haltEngine (s : State) : State := { s with engine := .halted }

/-- Fetch: the word at pc through MemRead (so a fetch at KBSR polls), then the pre-increment of pc (R33, R73, R111). -/
def fetch (s : State) : Word × State := ((memRead s.pc s).1, (memRead s.pc s).2.setPc (s.pc + 1#16))

/-- An engine that is not Running executes nothing (R40, R341, R345; log entry 21). -/
def idle (s : State) : State := s

/-- The address `withFetchWord` puts an instruction at: pc, or the entry address where pc is KBSR, whose fetch returns
the poll's answer and no stored word (R352; log entry 24). -/
def placeAddr (s : State) : Word := if s.pc = s.params.kbsrAddr then Config.pcReset else s.pc

/-- The host has loaded the word `w` where the next fetch is and started the engine (R80, R341; log entries 20, 24). -/
def placeAndStart (s : State) (w : Word) : State :=
  { (s.memWrite (placeAddr s) w).setPc (placeAddr s) with engine := .running, service := none }

end Sys2Proof.Machine
end

