-- ==== Sys2Proof/Machine/Flags.lean ====
section
/-! DEFINITION. The condition flags and the flag-update rule (spec/10_state.md R36 to R38). -/

namespace Sys2Proof.Machine

/-- POSITIVE (R36; decision D2, log entry 3). -/
def flagPositive : BitVec 3 := 0b001#3

/-- ZERO (R36; decision D2, log entry 3). -/
def flagZero : BitVec 3 := 0b010#3

/-- NEGATIVE (R36; decision D2, log entry 3). -/
def flagNegative : BitVec 3 := 0b100#3

/-- The one flag that a written value sets (R37). -/
def flagOf (v : Word) : BitVec 3 :=
  if v = 0x0000#16 then flagZero else if v.msb then flagNegative else flagPositive

/-- `setcc(v)`: the old flag is replaced, never combined (R37). -/
def setcc (v : Word) (s : State) : State := { s with cond := flagOf v }

/-- `x[d] <- v; setcc(v)`: how every flag-setting instruction ends (R38). -/
def writeResult (d : Reg) (v : Word) (s : State) : State := setcc v (s.setReg d v)

/-- BR's test: "(3-bit condition mask AND current flags) ≠ 0", mask n:z:p (R170). -/
def branchTaken (n z p : BitVec 1) (s : State) : Bool := (n ++ z ++ p) &&& s.cond != 0#3

end Sys2Proof.Machine
end

