-- ==== Sys2Proof/Machine/Operands.lean ====
section
/-! DEFINITION. The operand forms: immediates (spec/30_encoding.md R106), the addressing modes of spec/42_load.md R194
and the jump targets of spec/41_control.md. When a handler runs, pc already holds the instruction's address plus one. -/

namespace Sys2Proof.Machine

/-- `sext_N(f)`: sign extension of an N-bit field to 16 bits (R9). -/
def sext {n : Nat} (f : BitVec n) : Word := f.signExtend 16

/-- PC-relative address, `pc + sext_9(PCoffset9)`, mod 2^16 (R194, R106). -/
def addrPc9 (off : BitVec 9) (s : State) : Word := s.pc + sext off

/-- Base plus offset, `x[BaseR] + sext_6(offset6)`, mod 2^16 (R194, R106). -/
def addrBase6 (base : Reg) (off : BitVec 6) (s : State) : Word := s.reg base + sext off

/-- JSR's target, `pc + sext_11(PCoffset11)`, mod 2^16 (R172, R106). -/
def addrPc11 (off : BitVec 11) (s : State) : Word := s.pc + sext off

/-- PC-relative indirect: the address is the word read, through MemRead, at the PC-relative address (R194). -/
def addrIndirect9 (off : BitVec 9) (s : State) : Word × State := memRead (addrPc9 off s) s

/-- Bits 7..0 of a word, the character sent to the host (R68 b). -/
def lowByte (w : Word) : Byte := w.extractLsb' 0 8

/-- Bits 15..8 of a word, PUTSP's second character (R68 c). -/
def highByte (w : Word) : Byte := w.extractLsb' 8 8

end Sys2Proof.Machine
end

