-- ==== Sys2Proof/Machine/Control.lean ====
section
/-! DEFINITION. BR, JMP (RET), JSR and JSRR (spec/41_control.md). None of them writes the flags (R174). -/

namespace Sys2Proof.Machine

/-- R7, the register JSR and JSRR write (R32, R174). -/
def linkReg : Reg := 7#3

/-- Save the return address, pc already pre-incremented, in R7 (R172, R173). -/
def saveLink (s : State) : State := s.setReg linkReg s.pc

/-- BR: pc plus the offset where the mask meets the flags, else nothing (R170, R110). -/
def execBr (n z p : BitVec 1) (off : BitVec 9) (s : State) : Host.Outcome State Fault Refusal :=
  .next (if branchTaken n z p s then s.setPc (addrPc9 off s) else s)

/-- JMP; RET where the base is R7 (R171). -/
def execJmp (base : Reg) (s : State) : Host.Outcome State Fault Refusal :=
  .next (s.setPc (s.reg base))

/-- JSR: save, then pc plus the 11-bit offset (R172). -/
def execJsr (off : BitVec 11) (s : State) : Host.Outcome State Fault Refusal :=
  .next ((saveLink s).setPc (addrPc11 off (saveLink s)))

/-- JSRR: save, then pc from the base register, read AFTER the save (R173; decision D14, log entry 14). -/
def execJsrr (base : Reg) (s : State) : Host.Outcome State Fault Refusal :=
  .next ((saveLink s).setPc ((saveLink s).reg base))

end Sys2Proof.Machine
end

