-- ==== Sys2Proof/Machine/Load.lean ====
section
/-! DEFINITION. LD, LDI, LDR and LEA (spec/42_load.md). Every load reads through MemRead, so each of its reads that is
at KBSR polls the keyboard (R194). -/

namespace Sys2Proof.Machine

/-- Read the word at `a` into `dr` and set the flags from it (R190 to R192). -/
def loadInto (dr : Reg) (a : Word) (s : State) : State :=
  writeResult dr (memRead a s).1 (memRead a s).2

/-- LD (R190). -/
def execLd (dr : Reg) (off : BitVec 9) (s : State) : Host.Outcome State Fault Refusal :=
  .next (loadInto dr (addrPc9 off s) s)

/-- LDI: the pointer read first, then the data read (R191). -/
def execLdi (dr : Reg) (off : BitVec 9) (s : State) : Host.Outcome State Fault Refusal :=
  .next (loadInto dr (addrIndirect9 off s).1 (addrIndirect9 off s).2)

/-- LDR (R192). -/
def execLdr (dr base : Reg) (off : BitVec 6) (s : State) : Host.Outcome State Fault Refusal :=
  .next (loadInto dr (addrBase6 base off s) s)

/-- LEA: the address itself, no memory access (R193; log entry 26). -/
def execLea (dr : Reg) (off : BitVec 9) (s : State) : Host.Outcome State Fault Refusal :=
  .next (writeResult dr (addrPc9 off s) s)

end Sys2Proof.Machine
end

