-- ==== Sys2Proof/Machine/Operate.lean ====
section
/-! DEFINITION. ADD, AND and NOT (spec/40_operate.md). -/

namespace Sys2Proof.Machine

/-- ADD, register form: the sum mod 2^16, no carry and no trap (R140, R145). -/
def execAddReg (dr sr1 sr2 : Reg) (s : State) : Host.Outcome State Fault Refusal :=
  .next (writeResult dr (s.reg sr1 + s.reg sr2) s)

/-- ADD, immediate form (R141). -/
def execAddImm (dr sr1 : Reg) (imm : BitVec 5) (s : State) : Host.Outcome State Fault Refusal :=
  .next (writeResult dr (s.reg sr1 + sext imm) s)

/-- AND, register form (R142). -/
def execAndReg (dr sr1 sr2 : Reg) (s : State) : Host.Outcome State Fault Refusal :=
  .next (writeResult dr (s.reg sr1 &&& s.reg sr2) s)

/-- AND, immediate form (R143). -/
def execAndImm (dr sr1 : Reg) (imm : BitVec 5) (s : State) : Host.Outcome State Fault Refusal :=
  .next (writeResult dr (s.reg sr1 &&& sext imm) s)

/-- NOT: the 16-bit complement (R144). -/
def execNot (dr sr : Reg) (s : State) : Host.Outcome State Fault Refusal :=
  .next (writeResult dr (~~~(s.reg sr)) s)

end Sys2Proof.Machine
end

