-- ==== Sys2Proof/Machine/Reserved.lean ====
section
/-! DEFINITION. RTI and the reserved opcode, which take a fault (spec/45_reserved.md). -/

namespace Sys2Proof.Machine

/-- RTI: fault cause 1 (R270). It is no return from anything (R305). -/
def execRti (rest : BitVec 12) (s : State) : Host.Outcome State Fault Refusal :=
  .next (raiseFault .rti (encode (.rti rest)) s)

/-- The reserved opcode 13: fault cause 2 (R271). -/
def execReserved (rest : BitVec 12) (s : State) : Host.Outcome State Fault Refusal :=
  .next (raiseFault .reserved (encode (.reserved rest)) s)

end Sys2Proof.Machine
end

