-- ==== Sys2Proof/Machine/Store.lean ====
section
/-! DEFINITION. ST, STI and STR (spec/43_store.md): one whole word with MemWrite, no flag and no register (R213). -/

namespace Sys2Proof.Machine

/-- ST (R210). -/
def execSt (sr : Reg) (off : BitVec 9) (s : State) : Host.Outcome State Fault Refusal :=
  .next (s.memWrite (addrPc9 off s) (s.reg sr))

/-- STI: the pointer is read with MemRead, so a pointer cell at KBSR is polled before it is used (R211). -/
def execSti (sr : Reg) (off : BitVec 9) (s : State) : Host.Outcome State Fault Refusal :=
  .next ((addrIndirect9 off s).2.memWrite (addrIndirect9 off s).1 (s.reg sr))

/-- STR (R212). -/
def execStr (sr base : Reg) (off : BitVec 6) (s : State) : Host.Outcome State Fault Refusal :=
  .next (s.memWrite (addrBase6 base off s) (s.reg sr))

end Sys2Proof.Machine
end

