-- ==== Sys2Proof/Machine/Trap.lean ====
section
/-! DEFINITION. TRAP and its services (spec/44_trap.md). A service runs inside the block: no register but R0 (GETC, IN)
and no memory cell changes, and cond, R7 and pc keep their values (R231; decision D13, log entry 13).

A service that cannot end at once leaves the engine inside it (`service`): an input wait (R260; log entry 8) or a string
without end (decision D27; log entry 9). `resumeService` is then the engine's next step. -/

namespace Sys2Proof.Machine

/-- R0, the character register of the services (R32). -/
def charReg : Reg := 0#3

/-- The engine is inside service `k`, or inside none. -/
def State.setService (s : State) (k : Option Service) : State := { s with service := k }

/-- GETC from `in_get` on: the key's code to R0 without echo, or the wait (R232, R260). -/
def runGetc (s : State) : State :=
  match inGet s with
  | some (c, s') => (s'.setReg charReg (keyWord c)).setService none
  | none => s.setService (some .getc)

/-- IN from `in_get` on: the key's code echoed, then to R0, or the wait (R235, R260). -/
def runIn (s : State) : State :=
  match inGet s with
  | some (c, s') => ((s'.putBytes [c]).setReg charReg (keyWord c)).setService none
  | none => s.setService (some .input)

/-- The characters PUTS sends of one word: its low byte (R234). -/
def putsBytes (w : Word) : List Byte := [lowByte w]

/-- The characters PUTSP sends of one word: the low byte always, then the high byte if it is not zero (R236). -/
def putspBytes (w : Word) : List Byte :=
  if highByte w = 0x00#8 then [lowByte w] else [lowByte w, highByte w]

/-- Walk at most `n` words from `a` with plain reads, addresses wrapping mod 2^16 (R234, decisions D10, D11; log entries
10, 11): the characters before the first zero word, and whether there was one. -/
def walkString (bytesOf : Word → List Byte) (m : Memory) : Nat → Word → List Byte × Bool
  | 0, _ => ([], false)
  | n + 1, a =>
    if m.read a.toNat = 0x0000#16 then ([], true)
    else
      (bytesOf (m.read a.toNat) ++ (walkString bytesOf m n (a + 1#16)).1, (walkString bytesOf m n (a + 1#16)).2)

/-- The words of one round of the address space (R60). -/
def addressSpace : Nat := 65536

/-- PUTS or PUTSP from its first word on: all characters and the flush where the string ends. Where no word of memory is
zero the walk comes back to its first word after one round; the round's characters are sent, nothing is flushed and the
service goes on (decision D27; log entry 9). -/
def runString (k : Service) (bytesOf : Word → List Byte) (s : State) : State :=
  if (walkString bytesOf s.mem addressSpace (s.reg charReg)).2 then
    ((s.putBytes (walkString bytesOf s.mem addressSpace (s.reg charReg)).1).putFlush).setService none
  else
    (s.putBytes (walkString bytesOf s.mem addressSpace (s.reg charReg)).1).setService (some k)

/-- GETC (R232). -/
def execTrapGetc (s : State) : Host.Outcome State Fault Refusal := .next (runGetc s)

/-- OUT: the low byte of R0; no flush (R233). -/
def execTrapOut (s : State) : Host.Outcome State Fault Refusal := .next (s.putBytes [lowByte (s.reg charReg)])

/-- PUTS (R234). -/
def execTrapPuts (s : State) : Host.Outcome State Fault Refusal := .next (runString .puts putsBytes s)

/-- IN: the prompt, then the key (R235; decision D20, log entry 17). -/
def execTrapIn (s : State) : Host.Outcome State Fault Refusal := .next (runIn (s.putBytes Config.inPrompt))

/-- PUTSP (R236). -/
def execTrapPutsp (s : State) : Host.Outcome State Fault Refusal := .next (runString .putsp putspBytes s)

/-- HALT: the message, the flush, and the engine is Halted (R237; decision D21, log entry 17). -/
def execTrapHalt (s : State) : Host.Outcome State Fault Refusal :=
  .next (haltEngine ((s.putBytes Config.haltMessage).putFlush))

/-- TRAP with an undefined vector: fault BAD_TRAP before any host interaction (R238, R303). A term that holds a
service's vector stands for no word and has no meaning (log entry 23). -/
def execTrapUndefined (high : BitVec 4) (vector : Byte) (s : State) : Host.Outcome State Fault Refusal :=
  if isServiceVector vector then .refused (.illFormed "TRAP__undefined_vector")
  else .next (raiseFault .badTrap (encode (.trapUndefined high vector)) s)

/-- The next step of an engine inside a service. -/
def resumeService (k : Service) (s : State) : State :=
  match k with
  | .getc => runGetc s
  | .input => runIn s
  | .puts => runString .puts putsBytes s
  | .putsp => runString .putsp putspBytes s

end Sys2Proof.Machine
end

