-- ==== Sys2Proof/Machine/Step.lean ====
section
/-! DEFINITION. One step of the engine (spec/30_encoding.md R111, spec/70_reset_and_hazards.md R343), and the loading of
one instruction from outside. -/

namespace Sys2Proof.Machine

/-- One step. Running and inside no service: fetch, pre-increment, decode, execute (R111). Running inside a service: that
service goes on (R260, R353; log entries 8 and 9). Ready, Halted, Faulted: nothing executes (R40, R341, R345; log entry
21). -/
def step (s : State) : Host.Outcome State Fault Refusal :=
  match s.engine, s.service with
  | .running, none => exec (decode (fetch s).1) (fetch s).2
  | .running, some k => .next (resumeService k s)
  | _, _ => .next (idle s)

/-- `s` with the instruction word whose bits are `w` loaded where the next fetch is, and the engine started: it stands
for the host's `preload` and `start` (log entries 20 and 24). An instruction has one word (R100), so the bits of `w`
above `nbits` or above bit 15 are dropped. -/
def State.withFetchWord (s : State) (nbits w : Nat) : State :=
  placeAndStart s (BitVec.ofNat 16 (w % 2 ^ nbits))

end Sys2Proof.Machine
end

