-- ==== Sys2Proof/Machine/HostPort.lean ====
section
/-! DEFINITION. What the host does to the block between two steps: reset, preload, start, a key arriving, and the status
output (spec/00_scope.md R6, spec/20_memory.md R79 to R84, spec/44_trap.md R262, spec/70_reset_and_hazards.md R340,
R341; log entries 19 and 20). -/

namespace Sys2Proof.Machine

/-! ## reset and start -/

/-- `reset`, accepted in every state (R340): every item of the block's state at its reset value; the host's input queue
and what it has received are the host's and stay (R46; log entry 20), and so do the parameters (log entry 27). -/
def hostReset (s : State) : State := { State.resetWith s.params with keys := s.keys, output := s.output }

/-- `start`: Ready becomes Running; ignored in any other state (R341, decision D25). pc keeps its value (R84). -/
def hostStart (s : State) : State := if s.engine = .ready then { s with engine := .running } else s

/-! ## preload -/

/-- What `preload` tells the host; `ignored` stands for no answer (R79, R80). -/
inductive PreloadResult where
  | success
  | failure
  | ignored
  deriving DecidableEq, Repr

/-- The words of a byte stream, big-endian: the first byte of a pair is bits 15..8; a trailing odd byte is ignored
(R80, R81, decision D23). -/
def imageWords : List Byte → List Word
  | hi :: lo :: rest => (hi ++ lo) :: imageWords rest
  | _ => []

/-- Words stored from address `a` on, in order; loading stops at the boundary 0xFFFF and does not wrap (R80, R82,
decision D24). -/
def loadWords (m : Memory) (a : Nat) : List Word → Memory
  | [] => m
  | w :: rest => if 0xFFFF < a then m else loadWords (m.write a w) (a + 1) rest

/-- `preload(bytes)` that runs to its end (R79, R80): word 0 is the origin, the rest are stored from there. -/
def preload (bytes : List Byte) (s : State) : PreloadResult × State :=
  if s.engine = .ready then
    match imageWords bytes with
    | [] => (.failure, s)
    | origin :: ws => (.success, { s with mem := loadWords s.mem origin.toNat ws })
  else (.ignored, s)

/-- `preload(bytes)` whose stream fails partway, after `stored` of its words: that prefix is in memory, the rest is not,
and the host is told failure (R83). How long the prefix is the spec leaves open: any number (log entry 19). -/
def preloadBroken (bytes : List Byte) (stored : Nat) (s : State) : PreloadResult × State :=
  if s.engine = .ready then
    match imageWords bytes with
    | [] => (.failure, s)
    | origin :: ws => (.failure, { s with mem := loadWords s.mem origin.toNat (ws.take stored) })
  else (.ignored, s)

/-! ## The host's input queue -/

/-- The host's queue grows at its end: a key code, or a moment with no key pending (R262; log entry 7). -/
def hostKey (k : Option Byte) (s : State) : State := { s with keys := s.keys ++ [k] }

/-! ## One host interaction -/

/-- What the host may do between two steps (R6). -/
inductive HostOp where
  | reset
  | start
  | preload (bytes : List Byte)
  | preloadBroken (bytes : List Byte) (stored : Nat)
  | key (k : Option Byte)
  deriving DecidableEq, Repr

/-- The state after a host interaction. -/
def hostApply (op : HostOp) (s : State) : State :=
  match op with
  | .reset => hostReset s
  | .start => hostStart s
  | .preload bytes => (preload bytes s).2
  | .preloadBroken bytes stored => (preloadBroken bytes stored s).2
  | .key k => hostKey k s

/-! ## status (R6, R40, R306) -/

/-- The encoding of the engine state in `status` (R40; decision D29, log entry 15). -/
def engineCode : Engine → Nat
  | .ready => 0
  | .running => 1
  | .halted => 2
  | .faulted => 3

/-- The fault record as `status` reports it (R6, R41). -/
structure FaultReport where
  cause : BitVec 8
  pc : Word
  ir : Word
  deriving DecidableEq, Repr

/-- The `status` output: the engine state's code, and the fault record in Faulted (R6, R306). -/
structure StatusReport where
  state : Nat
  fault : Option FaultReport
  deriving DecidableEq, Repr

/-- `status`, readable in every state (R6). -/
def status (s : State) : StatusReport where
  state := engineCode s.engine
  fault := if s.engine = .faulted then some ⟨s.faultCause, s.faultPc, s.faultIr⟩ else none

/-! ## What of the output the host must have made visible (R45 c, R261, R262) -/

/-- The bytes of a log, the marks left out. -/
def outBytes : List OutEvent → List Byte
  | [] => []
  | .byte b :: rest => b :: outBytes rest
  | .flush :: rest => outBytes rest

/-- Is there a flush in the log? -/
def hasFlush : List OutEvent → Bool
  | [] => false
  | .byte _ :: rest => hasFlush rest
  | .flush :: _ => true

/-- The bytes before the last flush: "make all accepted bytes visible". Later bytes the host may show or hold back
(R262; log entry 18). -/
def flushedBytes : List OutEvent → List Byte
  | [] => []
  | .byte b :: rest => if hasFlush rest then b :: flushedBytes rest else []
  | .flush :: rest => flushedBytes rest

end Sys2Proof.Machine
end

