-- ==== Sys2Proof/Safety.lean ====
section
/-! DEFINITION. The terms in which claims are stated: the invariant of the machine, runs with host interactions, and
what an instruction may write. -/

namespace Sys2Proof.Machine

/-! ## The invariant -/

/-- `cond` holds exactly one of the three flags (R36, R39). -/
abbrev CondOneHot (s : State) : Prop := s.cond = flagPositive ∨ s.cond = flagZero ∨ s.cond = flagNegative

/-- The fault cause of an instruction: 1 for RTI, 2 for the reserved opcode, 3 for an undefined vector, 0 for what takes
no fault (R301). -/
def faultCauseOf : Instr → BitVec 8
  | .rti _ => 1#8
  | .reserved _ => 2#8
  | .trapUndefined .. => 3#8
  | .br .. | .addReg .. | .addImm .. | .ld .. | .st .. | .jsr _ | .jsrr _ | .andReg .. | .andImm .. | .ldr .. | .str ..
  | .not .. | .ldi .. | .sti .. | .jmp _ | .lea .. | .trapGetc | .trapOut | .trapPuts | .trapIn | .trapPutsp
  | .trapHalt => 0#8

/-- The fault record is clear unless the engine is Faulted; in Faulted it names the instruction just before pc, and its
cause is that instruction's (R41, R301, R302). -/
abbrev FaultRecordOk (s : State) : Prop :=
  if s.engine = .faulted then
    s.pc = s.faultPc + 1#16 ∧ s.faultCause ≠ 0#8 ∧ s.faultCause = faultCauseOf (decode s.faultIr)
  else s.faultCause = 0#8 ∧ s.faultPc = 0x0000#16 ∧ s.faultIr = 0x0000#16

/-- Only a Running engine is inside a service (R40, R260). -/
abbrev ServiceOk (s : State) : Prop := s.service = none ∨ s.engine = .running

/-- What the spec asks of the parameters: KBSR_ADDR and KBDR_ADDR "distinct, neither equal to 0x3000" (decision D5),
KBSR_READY with bit 15 set (U13), COND_RESET one flag (R39, decision D3). -/
abbrev ParamsOk (p : Config.Params) : Prop :=
  p.kbsrAddr ≠ p.kbdrAddr ∧ p.kbsrAddr ≠ 0x3000#16 ∧ p.kbdrAddr ≠ 0x3000#16 ∧ p.kbsrReady.getLsbD 15 = true ∧
    (p.condReset = flagPositive ∨ p.condReset = flagZero ∨ p.condReset = flagNegative)

/-- The invariant: canonical memory, one flag, a fault record that fits the engine state, a service only in Running,
parameters as the spec asks. -/
abbrev Inv (s : State) : Prop :=
  s.mem.wf = true ∧ CondOneHot s ∧ FaultRecordOk s ∧ ServiceOk s ∧ ParamsOk s.params

/-! ## Running with the host -/

/-- One event of a run: the engine steps, or the host acts between two steps. -/
inductive Event where
  | step
  | host (op : HostOp)
  deriving DecidableEq, Repr

/-- One event (a step that stops leaves no next state). -/
def runEvent (e : Event) (s : State) : Option State :=
  match e with
  | .step => match step s with
    | .next t => some t
    | _ => none
  | .host op => some (hostApply op s)

/-- A sequence of events. -/
def runEvents : List Event → State → Option State
  | [], s => some s
  | e :: rest, s => match runEvent e s with
    | some t => runEvents rest t
    | none => none

/-! ## What an instruction writes -/

/-- The general registers an instruction may write (R31). -/
def writesRegs : Instr → List Reg
  | .addReg d _ _ | .addImm d _ _ | .andReg d _ _ | .andImm d _ _ | .not d _ => [d]
  | .ld d _ | .ldi d _ | .ldr d _ _ | .lea d _ => [d]
  | .jsr _ | .jsrr _ => [7#3]
  | .trapGetc | .trapIn => [0#3]
  | .br .. | .jmp _ | .st .. | .sti .. | .str .. | .trapOut | .trapPuts | .trapPutsp | .trapHalt
  | .rti _ | .reserved _ | .trapUndefined .. => []

/-- The register whose written value an instruction sets the flags from, for the instructions that set them (R38). -/
def flagReg : Instr → Option Reg
  | .addReg d _ _ | .addImm d _ _ | .andReg d _ _ | .andImm d _ _ | .not d _ => some d
  | .ld d _ | .ldi d _ | .ldr d _ _ | .lea d _ => some d
  | .br .. | .jmp _ | .jsr _ | .jsrr _ | .st .. | .sti .. | .str .. | .trapGetc | .trapOut | .trapPuts | .trapIn
  | .trapPutsp | .trapHalt | .rti _ | .reserved _ | .trapUndefined .. => none

/-- Is the instruction BR, the only reader of the flags (R36, R38)? -/
def isBr : Instr → Bool
  | .br .. => true
  | _ => false

/-- A service TRAP (R230). -/
def isService : Instr → Bool
  | .trapGetc | .trapOut | .trapPuts | .trapIn | .trapPutsp | .trapHalt => true
  | _ => false

/-- An instruction that takes a fault (R301). -/
def isFaulting : Instr → Bool
  | .rti _ | .reserved _ | .trapUndefined .. => true
  | _ => false

/-- A control transfer (R174). -/
def isControl : Instr → Bool
  | .br .. | .jmp _ | .jsr _ | .jsrr _ => true
  | _ => false

/-- A load or store: an instruction that makes a data access through MemRead or MemWrite (R61). -/
def isDataAccess : Instr → Bool
  | .ld .. | .ldi .. | .ldr .. | .st .. | .sti .. | .str .. => true
  | _ => false

/-- A store (R213). -/
def isStore : Instr → Bool
  | .st .. | .sti .. | .str .. => true
  | _ => false

/-- An instruction that may take a key from the host: GETC and IN, and what reads memory through MemRead (R64, R262). -/
def mayReadHost : Instr → Bool
  | .trapGetc | .trapIn | .ld .. | .ldi .. | .ldr .. | .sti .. => true
  | _ => false

/-- How an instruction leaves pc, in terms of the pre-incremented pc (R34). -/
def pcAfter (i : Instr) (s : State) : Word :=
  match i with
  | .br n z p off => if (n ++ z ++ p) &&& s.cond ≠ 0b000#3 then s.pc + off.signExtend 16 else s.pc
  | .jmp base => s.reg base
  | .jsr off => s.pc + off.signExtend 16
  | .jsrr base => if base = 7#3 then s.pc else s.reg base
  | .addReg .. | .addImm .. | .andReg .. | .andImm .. | .not .. | .ld .. | .ldi .. | .ldr .. | .lea .. | .st .. | .sti ..
  | .str .. | .trapGetc | .trapOut | .trapPuts | .trapIn | .trapPutsp | .trapHalt | .rti _ | .reserved _
  | .trapUndefined .. => s.pc

/-- The bits of a word that its handler reads or records; the others are the `x` bits of R101. -/
def namedBits : Instr → Word
  | .addReg .. | .andReg .. => 0xFFE7
  | .not .. => 0xFFC0
  | .jmp _ => 0xF1C0
  | .jsrr _ => 0xF9C0
  | .trapGetc | .trapOut | .trapPuts | .trapIn | .trapPutsp | .trapHalt => 0xF0FF
  | .br .. | .addImm .. | .ld .. | .st .. | .jsr _ | .andImm .. | .ldr .. | .str .. | .rti _ | .ldi .. | .sti ..
  | .reserved _ | .lea .. | .trapUndefined .. => 0xFFFF

/-- An outcome with its next state changed by `f`. -/
def mapNext (f : State → State) : Host.Outcome State Fault Refusal → Host.Outcome State Fault Refusal
  | .next t => .next (f t)
  | .fault r => .fault r
  | .refused r => .refused r

/-- `s` with other flags. -/
def State.withCond (s : State) (c : BitVec 3) : State := { s with cond := c }

/-- `s` with another host input queue. -/
def State.withKeys (s : State) (ks : List (Option Byte)) : State := { s with keys := ks }

/-! ## Frames: what two states share -/

/-- Every cell of memory reads the same in both. -/
abbrev SameMemory (s t : State) : Prop := ∀ a : Word, t.storeRead a = s.storeRead a

/-- The engine state, the fault record, the service in progress and the parameters are the same. -/
abbrev SameEngine (s t : State) : Prop :=
  t.engine = s.engine ∧ t.faultCause = s.faultCause ∧ t.faultPc = s.faultPc ∧ t.faultIr = s.faultIr ∧
    t.service = s.service ∧ t.params = s.params

/-- The host's queue and the output log are the same. -/
abbrev SameHost (s t : State) : Prop := t.keys = s.keys ∧ t.output = s.output

/-- Every general register is the same. -/
abbrev SameRegs (s t : State) : Prop := ∀ r : Reg, t.reg r = s.reg r

/-- Every general register but `d` is the same. -/
abbrev SameRegsBut (d : Reg) (s t : State) : Prop := ∀ r : Reg, r ≠ d → t.reg r = s.reg r

/-- `t` is `s` with `v` written to register `d` and the flags set from it; nothing else differs (R37, R38). -/
abbrev ResultWritten (d : Reg) (v : Word) (s t : State) : Prop :=
  t.reg d = v ∧ SameRegsBut d s t ∧ t.cond = flagOf v ∧ t.pc = s.pc ∧ SameMemory s t ∧ SameEngine s t ∧ SameHost s t

/-- `t` is `s` after a load into `d`: the word read at `ea` by MemRead, done at the state `m`, is in `d` and sets the
flags; memory and the host's queue are what that read leaves; nothing else differs from `s` (R190 to R192, R64). -/
abbrev Loaded (d : Reg) (ea : Word) (m s t : State) : Prop :=
  t.reg d = (memRead ea m).1 ∧ SameRegsBut d s t ∧ t.cond = flagOf (memRead ea m).1 ∧ t.pc = s.pc ∧
    SameMemory (memRead ea m).2 t ∧ t.keys = (memRead ea m).2.keys ∧ t.output = s.output ∧ SameEngine s t

/-- `t` is `s` after a store of `v` at `ea`: every other cell and the host's queue are as at the state `m`, which the
pointer read of STI leaves and which is `s` for ST and STR; nothing else differs from `s` (R210 to R213). -/
abbrev Stored (ea v : Word) (m s t : State) : Prop :=
  t.storeRead ea = v ∧ (∀ a : Word, a ≠ ea → t.storeRead a = m.storeRead a) ∧ t.keys = m.keys ∧
    SameRegs s t ∧ t.cond = s.cond ∧ t.pc = s.pc ∧ t.output = s.output ∧ SameEngine s t

/-- `t` is `s` after the fault `cause` of the instruction word `ir` at `s.pc - 1`: the fault record is written, the
engine is Faulted, nothing else differs (R302). -/
abbrev FaultTaken (cause : BitVec 8) (ir : Word) (s t : State) : Prop :=
  t.engine = .faulted ∧ t.faultCause = cause ∧ t.faultPc = s.pc - 1#16 ∧ t.faultIr = ir ∧
    t.pc = s.pc ∧ SameRegs s t ∧ t.cond = s.cond ∧ SameMemory s t ∧ SameHost s t ∧ t.service = s.service ∧
    t.params = s.params

/-- The bytes of an image: each word's bits 15..8, then its bits 7..0 (R80, R81). -/
def imageBytes (ws : List Word) : List Byte := ws.flatMap (fun w => [w.extractLsb' 8 8, w.extractLsb' 0 8])

/-- The words at the addresses `a`, `a + 1`, ... (mod 2^16) are `ws`, none of them zero, and then comes a zero word: a
string as PUTS and PUTSP read it (R234, R236). -/
def StringAt (s : State) (a : Word) : List Word → Prop
  | [] => s.storeRead a = 0x0000#16
  | w :: ws => s.storeRead a = w ∧ w ≠ 0x0000#16 ∧ StringAt s (a + 1#16) ws

/-- The engine is Running and inside no service: its next step is an instruction (R111). -/
abbrev AtInstruction (s : State) : Prop := s.engine = .running ∧ s.service = none

end Sys2Proof.Machine
end

