-- ==== Sys2Proof/Certificates/Slice0/Obligations.lean ====
section
/-! DEFINITION. The statements for the provers. Each docstring names the rule of spec/ the statement formalises or rests
on. When `exec` runs, pc is already the instruction's address plus one (spec/10_state.md R33). -/

open Sys2Proof Sys2Proof.Machine

/-! ## Encoding and decoding (spec/30_encoding.md; the layout is decision D1, log entry 2) -/

/-- Decoding the word of a well-formed instruction gives it back, every operand at every value (R101 to R107). -/
def Obligations.DecodeOfEncodeIsTheInstruction : Prop :=
  ∀ i : Instr, i.wellFormed = true → decode (encode i) = i

/-- The decoder is total on the words and drops no bit that a handler reads or a fault records (R101, R108, R111). -/
def Obligations.EncodeOfDecodeKeepsEveryNamedBit : Prop :=
  ∀ w : Word, (decode w).wellFormed = true ∧
    encode (decode w) &&& namedBits (decode w) = w &&& namedBits (decode w)

/-- The first row of the opcode table that matches a word is the row of the decoded instruction (R102, R109). -/
def Obligations.DecodeFollowsTheOpcodeTable : Prop :=
  ∀ w : Word, opcodeTable.find? (fun r => rowMatches r w) = some (rowOf (decode w))

/-- Words that differ in ignored bits only decode to the same instruction (R107, R108; decision D12, log entry 12). -/
def Obligations.IgnoredBitsDoNotChangeTheInstruction : Prop :=
  ∀ w w' : Word, w' &&& namedBits (decode w) = w &&& namedBits (decode w) → decode w' = decode w

/-- One word or more per constructor decodes to the instruction it stands for: the spec's own examples (R113, R140 to R144,
R170 to R173, R190 to R193, R210 to R212, R230, R238, R270, R271; S4 and 2.1 of spec/95_test_vectors.md for 0x0A02,
0x5070), and LD, LEA and ST with a register field that is not zero, written out from R101 and R105 (0x2A03, 0xEDFF,
0x3602). -/
def Obligations.SpecExampleWordsDecode : Prop :=
  (decode 0x1401#16 = .addReg 2#3 0#3 1#3 ∧ decode 0x107D#16 = .addImm 0#3 1#3 0b11101#5 ∧
    decode 0x5642#16 = .andReg 3#3 1#3 2#3 ∧ decode 0x5020#16 = .andImm 0#3 0#3 0#5 ∧
    decode 0x5070#16 = .andImm 0#3 1#3 0b10000#5 ∧ decode 0x997F#16 = .not 4#3 5#3) ∧
  (decode 0x0402#16 = .br 0#1 1#1 0#1 2#9 ∧ decode 0x0A02#16 = .br 1#1 0#1 1#1 2#9 ∧ decode 0xC080#16 = .jmp 2#3 ∧
    decode 0xC1C0#16 = .jmp 7#3 ∧ decode 0x4805#16 = .jsr 5#11 ∧ decode 0x40C0#16 = .jsrr 3#3) ∧
  (decode 0x2003#16 = .ld 0#3 3#9 ∧ decode 0x2A03#16 = .ld 5#3 3#9 ∧ decode 0xA201#16 = .ldi 1#3 1#9 ∧
    decode 0x64FF#16 = .ldr 2#3 3#3 0b111111#6 ∧ decode 0xE1FF#16 = .lea 0#3 0b111111111#9 ∧
    decode 0xEDFF#16 = .lea 6#3 0b111111111#9) ∧
  (decode 0x3002#16 = .st 0#3 2#9 ∧ decode 0x3602#16 = .st 3#3 2#9 ∧ decode 0xB201#16 = .sti 1#3 1#9 ∧
    decode 0x74C4#16 = .str 2#3 3#3 4#6) ∧
  (decode 0xF020#16 = .trapGetc ∧ decode 0xF021#16 = .trapOut ∧ decode 0xF022#16 = .trapPuts ∧
    decode 0xF023#16 = .trapIn ∧ decode 0xF024#16 = .trapPutsp ∧ decode 0xF025#16 = .trapHalt ∧
    decode 0xFF25#16 = .trapHalt ∧ decode 0xF026#16 = .trapUndefined 0#4 0x26#8) ∧
  (decode 0xDEAD#16 = .reserved 0xEAD#12 ∧ decode 0x8000#16 = .rti 0#12)

/-! ## The step (spec/30_encoding.md R111, spec/70_reset_and_hazards.md R341, R343) -/

/-- A Running engine inside no service fetches through MemRead, pre-increments pc and executes the decoded instruction;
away from KBSR the word is the cell at pc and the fetch changes nothing else (R111, R33, R65). -/
def Obligations.StepRunsTheDecodedInstruction : Prop :=
  (∀ s : State, AtInstruction s →
    step s = exec (decode (memRead s.pc s).1) ((memRead s.pc s).2.setPc (s.pc + 1#16))) ∧
  (∀ (s : State) (w : Word), AtInstruction s → s.pc ≠ s.params.kbsrAddr → s.storeRead s.pc = w →
    step s = exec (decode w) (s.setPc (s.pc + 1#16)))

/-- A word the host places is the next instruction, and runs as such (R80, R111, R341; log entries 20 and 24). -/
def Obligations.PlacedWordRunsNext : Prop :=
  ∀ (s : State) (w : Nat), ParamsOk s.params → w < 2 ^ 16 → ∃ i t, decodeTableWord 16 w = some i ∧
    step (s.withFetchWord 16 w) = exec i t ∧ t.pc = (s.withFetchWord 16 w).pc + 1#16 ∧ AtInstruction t ∧
    SameRegs s t ∧ t.cond = s.cond ∧ SameHost s t ∧ t.params = s.params ∧
    ∀ a : Word, a ≠ (s.withFetchWord 16 w).pc → t.storeRead a = s.storeRead a

/-- Whatever the state, a step answers a next state: no step of this machine stops (R62, R300, R301); and no step changes a
parameter (R63; log entry 27). -/
def Obligations.EveryStepAnswersANextState : Prop :=
  ∀ s : State, ∃ t, step s = .next t ∧ t.params = s.params

/-! ## The invariant (R36, R39, R41, R60) -/

/-- The state after reset meets the invariant, with the default parameters and with any that the spec allows (R39, R46,
R63; log entries 4, 5, 27). -/
def Obligations.InvariantHoldsAtReset : Prop :=
  Inv State.reset ∧ ∀ p : Config.Params, ParamsOk p → Inv (State.resetWith p)

/-- Every step keeps the invariant: canonical memory, one flag, a fault record that fits the engine state and the
instruction before pc, a service only in Running, parameters as the spec asks (R39, R41, R301, R302, R63). -/
def Obligations.EveryStepKeepsTheInvariant : Prop :=
  ∀ s t : State, Inv s → step s = .next t → Inv t

/-- Every host interaction keeps the invariant (R6, R40, R80, R340, R341), and none changes a parameter (R63; log entry
27). -/
def Obligations.EveryHostActKeepsTheInvariant : Prop :=
  (∀ (op : HostOp) (s : State), Inv s → Inv (hostApply op s)) ∧
  (∀ (op : HostOp) (s : State), (hostApply op s).params = s.params)

/-- From a state with the invariant, every sequence of steps and host interactions can run to its end, and ends in a
state with the invariant and the parameters it had (R39, R40, R63, R262). -/
def Obligations.EveryRunWithTheHostKeepsTheInvariant : Prop :=
  ∀ (es : List Event) (s : State), Inv s → ∃ t, runEvents es s = some t ∧ Inv t ∧ t.params = s.params

/-! ## Reset (spec/10_state.md R46, spec/70_reset_and_hazards.md R340) -/

/-- `reset` in any state: Ready, pc 0x3000, every cell 0x0000, the fault record clear (decision D15), R0..R7 at GPR_RESET
and the flags at COND_RESET; the host keeps its queue and what it received (log entry 20), the machine its parameters
(log entry 27). The last clauses are the defaults, the model's values: registers zero and the flag ZERO (decisions D4, D3;
log entry 4), the keyboard cells and the ready value (decisions D5, D6; log entry 5). -/
def Obligations.ResetGivesTheResetValues : Prop :=
  (∀ s : State, (hostReset s).engine = .ready ∧ (hostReset s).pc = 0x3000#16 ∧
    (∀ a : Word, (hostReset s).storeRead a = 0x0000#16) ∧ (∀ r : Reg, (hostReset s).reg r = s.params.gprReset) ∧
    (hostReset s).cond = s.params.condReset ∧ (hostReset s).faultCause = 0#8 ∧ (hostReset s).faultPc = 0x0000#16 ∧
    (hostReset s).faultIr = 0x0000#16 ∧ (hostReset s).service = none ∧ (hostReset s).params = s.params ∧
    SameHost s (hostReset s)) ∧
  hostReset State.reset = State.reset ∧ (∀ r : Reg, State.reset.reg r = 0x0000#16) ∧ State.reset.cond = 0b010#3 ∧
  State.reset.params.kbsrAddr = 0xFE00#16 ∧ State.reset.params.kbdrAddr = 0xFE02#16 ∧
  State.reset.params.kbsrReady = 0x8000#16

/-! ## Registers, flags and pc (spec/10_state.md) -/

/-- Sign extension as R9 defines it, by bits, by the mask formula and by the signed value; zero extension beside it,
which a key code takes when it becomes a word (R64; decision D9, log entry 6). -/
def Obligations.SignExtensionIsAsDefined : Prop :=
  ∀ (n : Nat) (f : BitVec n), 0 < n → n ≤ 16 →
    (∀ k, k < n → (sext f).getLsbD k = f.getLsbD k) ∧
    (∀ k, n ≤ k → k < 16 → (sext f).getLsbD k = f.getLsbD (n - 1)) ∧
    sext f = (if f.getLsbD (n - 1) = false then f.setWidth 16 else f.setWidth 16 ||| (0xFFFF#16 <<< n)) ∧
    (sext f).toInt = f.toInt ∧
    (∀ k, (zext f).getLsbD k = (if k < n then f.getLsbD k else false)) ∧ ∀ c : Byte, keyWord c = zext c

/-- `setcc` sets exactly the one flag of the value, whatever the flags were, and nothing else; the flag is that of the
value's sign (R37, R8). -/
def Obligations.SetccSetsTheOneFlagOfTheValue : Prop :=
  ∀ (v : Word) (s : State),
    (v = 0x0000#16 → (setcc v s).cond = 0b010#3) ∧
    (v ≠ 0x0000#16 → v.getLsbD 15 = true → (setcc v s).cond = 0b100#3) ∧
    (v ≠ 0x0000#16 → v.getLsbD 15 = false → (setcc v s).cond = 0b001#3) ∧
    ((setcc v s).cond = flagNegative ↔ v.toInt < 0) ∧ ((setcc v s).cond = flagZero ↔ v.toInt = 0) ∧
    ((setcc v s).cond = flagPositive ↔ 0 < v.toInt) ∧
    SameRegs s (setcc v s) ∧ (setcc v s).pc = s.pc ∧ SameMemory s (setcc v s) ∧ SameEngine s (setcc v s) ∧
    SameHost s (setcc v s)

/-- The instructions that set the flags set them from the value they leave in DR; every other instruction, services and
faults too, leaves them; and no instruction but BR reads them (R38). -/
def Obligations.FlagsAreWrittenAndReadOnlyAsListed : Prop :=
  (∀ (i : Instr) (s t : State), exec i s = .next t →
    match flagReg i with
    | some d => t.cond = flagOf (t.reg d)
    | none => t.cond = s.cond) ∧
  (∀ (i : Instr) (s : State) (c : BitVec 3), isBr i = false →
    exec i (s.withCond c) =
      mapNext (fun t => if (flagReg i).isSome then t else t.withCond c) (exec i s))

/-- No instruction writes a general register that R31 does not list for it. -/
def Obligations.OnlyTheListedRegistersChange : Prop :=
  ∀ (i : Instr) (s t : State), exec i s = .next t → ∀ r : Reg, r ∉ writesRegs i → t.reg r = s.reg r

/-- Every instruction answers a next state and leaves pc as R34's table has it; the rows that fault leave the engine
Faulted. -/
def Obligations.PcAfterEveryInstruction : Prop :=
  ∀ (i : Instr) (s : State), i.wellFormed = true →
    ∃ t, exec i s = .next t ∧ t.pc = pcAfter i s ∧ (isFaulting i = true → t.engine = .faulted)

/-! ## Operate instructions (spec/40_operate.md) -/

/-- ADD, both forms: the sum mod 2^16 and its flag, nothing else (R140, R141, R145). -/
def Obligations.AddWritesTheSum : Prop :=
  ∀ (s : State) (d a b : Reg) (imm : BitVec 5),
    (∃ t, exec (.addReg d a b) s = .next t ∧ ResultWritten d (s.reg a + s.reg b) s t) ∧
    (∃ t, exec (.addImm d a imm) s = .next t ∧ ResultWritten d (s.reg a + imm.signExtend 16) s t)

/-- AND, both forms: the bitwise conjunction and its flag, nothing else (R142, R143). -/
def Obligations.AndWritesTheConjunction : Prop :=
  ∀ (s : State) (d a b : Reg) (imm : BitVec 5),
    (∃ t, exec (.andReg d a b) s = .next t ∧ ResultWritten d (s.reg a &&& s.reg b) s t) ∧
    (∃ t, exec (.andImm d a imm) s = .next t ∧ ResultWritten d (s.reg a &&& imm.signExtend 16) s t)

/-- NOT: the 16-bit complement and its flag, nothing else (R144). -/
def Obligations.NotWritesTheComplement : Prop :=
  ∀ (s : State) (d a : Reg), ∃ t, exec (.not d a) s = .next t ∧ ResultWritten d (~~~(s.reg a)) s t

/-- Subtraction from NOT and ADD, as R145 builds it: NOT b into d, ADD 1 to d, then ADD a and d into d gives a - b mod
2^16. Here d is not a, which the first two instructions would overwrite; d may be b. -/
def Obligations.NotAddAddSubtracts : Prop :=
  ∀ (s : State) (d a b : Reg), d ≠ a →
    ∃ t u v, exec (.not d b) s = .next t ∧ exec (.addImm d d 1#5) t = .next u ∧ exec (.addReg d a d) u = .next v ∧
      ResultWritten d (s.reg a - s.reg b) s v

/-! ## Control transfer (spec/41_control.md) -/

/-- BR: taken exactly where a mask bit meets the flag, target relative to the pre-incremented pc, nothing else changes;
mask 000 never branches; mask 111 branches in every state with one flag (R170, R110, R39). -/
def Obligations.BranchMovesOnlyPc : Prop :=
  (∀ (s : State) (n z p : BitVec 1) (off : BitVec 9), ∃ t, exec (.br n z p off) s = .next t ∧
    t.pc = (if (n = 1#1 ∧ s.cond.getLsbD 2 = true) ∨ (z = 1#1 ∧ s.cond.getLsbD 1 = true) ∨
      (p = 1#1 ∧ s.cond.getLsbD 0 = true) then s.pc + off.signExtend 16 else s.pc) ∧
    SameRegs s t ∧ t.cond = s.cond ∧ SameMemory s t ∧ SameEngine s t ∧ SameHost s t) ∧
  (∀ (s : State) (off : BitVec 9), exec (.br 0#1 0#1 0#1 off) s = .next s) ∧
  (∀ (s : State) (off : BitVec 9), CondOneHot s →
    exec (.br 1#1 1#1 1#1 off) s = .next (s.setPc (s.pc + off.signExtend 16)))

/-- JMP, JSR and JSRR: the target, the link in R7, nothing else; JSRR reads its base after R7 is written, so `JSRR R7`
goes on at pc (R171, R172, R173; decision D14, log entry 14). -/
def Obligations.JumpsAndCallsSetPcAndLink : Prop :=
  ∀ (s : State) (base : Reg) (off : BitVec 11),
    (∃ t, exec (.jmp base) s = .next t ∧ t.pc = s.reg base ∧ SameRegs s t ∧ t.cond = s.cond ∧ SameMemory s t ∧
      SameEngine s t ∧ SameHost s t) ∧
    (∃ t, exec (.jsr off) s = .next t ∧ t.pc = s.pc + off.signExtend 16 ∧ t.reg 7#3 = s.pc ∧ SameRegsBut 7#3 s t ∧
      t.cond = s.cond ∧ SameMemory s t ∧ SameEngine s t ∧ SameHost s t) ∧
    (∃ t, exec (.jsrr base) s = .next t ∧ t.pc = (if base = 7#3 then s.pc else s.reg base) ∧ t.reg 7#3 = s.pc ∧
      SameRegsBut 7#3 s t ∧ t.cond = s.cond ∧ SameMemory s t ∧ SameEngine s t ∧ SameHost s t)

/-- After a control transfer the very next step is the instruction at the target: no delay slot, no annulment, no fault
on any target; none writes the flags; JSR and JSRR write the return address to R7 and nothing to memory; `JMP R7`
returns (R174). The target of `JSRR R7` is the saved address (R173; decision D14, log entry 14). -/
def Obligations.ControlTransferHasNoDelaySlot : Prop :=
  ∀ (i : Instr) (s : State), isControl i = true → AtInstruction s →
    ∃ t, exec i s = .next t ∧ t.cond = s.cond ∧ t.pc = pcAfter i s ∧ SameMemory s t ∧
      step t = exec (decode (memRead (pcAfter i s) t).1)
        ((memRead (pcAfter i s) t).2.setPc (pcAfter i s + 1#16)) ∧
      (writesRegs i = [7#3] → t.reg 7#3 = s.pc ∧
        ∀ u : State, u.reg 7#3 = t.reg 7#3 → ∃ v, exec (.jmp 7#3) u = .next v ∧ v.pc = s.pc)

/-! ## Loads and LEA (spec/42_load.md) -/

/-- LD, LDR and LDI: the word MemRead gives at the effective address goes to DR and sets the flags; LDI reads its pointer
first, through MemRead; no base register changes (R190, R191, R192, R194). -/
def Obligations.LoadsWriteTheWordRead : Prop :=
  ∀ (s : State) (d base : Reg) (off9 : BitVec 9) (off6 : BitVec 6),
    (∃ t, exec (.ld d off9) s = .next t ∧ Loaded d (s.pc + off9.signExtend 16) s s t) ∧
    (∃ t, exec (.ldr d base off6) s = .next t ∧ Loaded d (s.reg base + off6.signExtend 16) s s t) ∧
    (∃ t, exec (.ldi d off9) s = .next t ∧
      Loaded d (memRead (s.pc + off9.signExtend 16) s).1 (memRead (s.pc + off9.signExtend 16) s).2 s t)

/-- A load none of whose reads is at KBSR writes the cell itself to DR and leaves all of memory and the host alone (R65,
R190, R191, R192). -/
def Obligations.LoadsAwayFromKbsrChangeNoCell : Prop :=
  ∀ (s : State) (d base : Reg) (off9 : BitVec 9) (off6 : BitVec 6),
    (s.pc + off9.signExtend 16 ≠ s.params.kbsrAddr →
      ∃ t, exec (.ld d off9) s = .next t ∧ ResultWritten d (s.storeRead (s.pc + off9.signExtend 16)) s t) ∧
    (s.reg base + off6.signExtend 16 ≠ s.params.kbsrAddr →
      ∃ t, exec (.ldr d base off6) s = .next t ∧
        ResultWritten d (s.storeRead (s.reg base + off6.signExtend 16)) s t) ∧
    (s.pc + off9.signExtend 16 ≠ s.params.kbsrAddr → s.storeRead (s.pc + off9.signExtend 16) ≠ s.params.kbsrAddr →
      ∃ t, exec (.ldi d off9) s = .next t ∧
        ResultWritten d (s.storeRead (s.storeRead (s.pc + off9.signExtend 16))) s t)

/-- LEA writes the address and its flag and makes no access: not even LEA of KBSR polls (R193; log entry 26). -/
def Obligations.LeaWritesTheAddressOnly : Prop :=
  ∀ (s : State) (d : Reg) (off : BitVec 9),
    ∃ t, exec (.lea d off) s = .next t ∧ ResultWritten d (s.pc + off.signExtend 16) s t

/-- `LDI` whose pointer cell holds KBSR polls the keyboard: DR and the flag say whether a key was pending, and the key
is in KBDR (R191, R64; decisions D5 to D9, log entries 5, 6 and 27). -/
def Obligations.LdiThroughKbsrPollsTheKeyboard : Prop :=
  ∀ (s : State) (d : Reg) (off : BitVec 9), ParamsOk s.params → s.pc + off.signExtend 16 ≠ s.params.kbsrAddr →
    s.storeRead (s.pc + off.signExtend 16) = s.params.kbsrAddr →
    (∀ c rest, s.keys = some c :: rest → ∃ t, exec (.ldi d off) s = .next t ∧ t.reg d = s.params.kbsrReady ∧
      t.cond = flagNegative ∧ t.storeRead s.params.kbdrAddr = c.setWidth 16 ∧ t.keys = rest ∧ t.pc = s.pc) ∧
    (∀ rest, s.keys = none :: rest ∨ (s.keys = [] ∧ rest = []) →
      ∃ t, exec (.ldi d off) s = .next t ∧ t.reg d = 0x0000#16 ∧ t.cond = flagZero ∧
      t.storeRead s.params.kbdrAddr = s.storeRead s.params.kbdrAddr ∧ t.keys = rest ∧ t.pc = s.pc)

/-! ## Stores (spec/43_store.md) -/

/-- ST, STR and STI write the one word of SR at the effective address, the device cells being plain cells; no flag and no
register; STI's pointer is read through MemRead; the word is what a later fetch there gets (R213, R210 to R212, R194). -/
def Obligations.StoresWriteExactlyOneCell : Prop :=
  ∀ (s : State) (r base : Reg) (off9 : BitVec 9) (off6 : BitVec 6),
    (∃ t, exec (.st r off9) s = .next t ∧ Stored (s.pc + off9.signExtend 16) (s.reg r) s s t) ∧
    (∃ t, exec (.str r base off6) s = .next t ∧ Stored (s.reg base + off6.signExtend 16) (s.reg r) s s t) ∧
    (∃ t, exec (.sti r off9) s = .next t ∧
      Stored (memRead (s.pc + off9.signExtend 16) s).1 (s.reg r) (memRead (s.pc + off9.signExtend 16) s).2 s t) ∧
    (∀ (i : Instr) (t u : State) (ea v : Word), exec i s = .next t → isStore i = true → Stored ea v u s t →
      ea ≠ s.params.kbsrAddr → (fetch (t.setPc ea)).1 = v)

/-- A store over the very next instruction: the stored word is what runs next (R77, R210; decision D28, log entry 25). -/
def Obligations.StoredWordRunsAsTheNextInstruction : Prop :=
  ∀ (s : State) (r : Reg), AtInstruction s → s.pc ≠ s.params.kbsrAddr → s.pc + 1#16 ≠ s.params.kbsrAddr →
    decode (s.storeRead s.pc) = .st r 0#9 →
    ∃ t, step s = .next t ∧ t.pc = s.pc + 1#16 ∧ step t = exec (decode (s.reg r)) (t.setPc (s.pc + 2#16))

/-! ## Memory and the keyboard cells (spec/20_memory.md) -/

/-- A read of KBSR asks the host once: with a key pending, the ready word, its high bit set, as the status and the key in
KBDR, the key consumed; with none, status 0 and KBDR as it was. No other cell and nothing else of the block changes (R64;
decisions D5 to D9, log entries 5, 6 and 27). -/
def Obligations.KbsrReadPollsTheHost : Prop :=
  ∀ s : State, ParamsOk s.params →
    (∀ c rest, s.keys = some c :: rest →
      (memRead s.params.kbsrAddr s).1 = s.params.kbsrReady ∧ (memRead s.params.kbsrAddr s).1.getLsbD 15 = true ∧
      (memRead s.params.kbsrAddr s).2.storeRead s.params.kbsrAddr = s.params.kbsrReady ∧
      (memRead s.params.kbsrAddr s).2.storeRead s.params.kbdrAddr = c.setWidth 16 ∧
      (memRead s.params.kbsrAddr s).2.keys = rest) ∧
    (∀ rest, s.keys = none :: rest ∨ (s.keys = [] ∧ rest = []) →
      (memRead s.params.kbsrAddr s).1 = 0x0000#16 ∧
      (memRead s.params.kbsrAddr s).2.storeRead s.params.kbsrAddr = 0x0000#16 ∧
      (memRead s.params.kbsrAddr s).2.storeRead s.params.kbdrAddr = s.storeRead s.params.kbdrAddr ∧
      (memRead s.params.kbsrAddr s).2.keys = rest) ∧
    (∀ a : Word, a ≠ s.params.kbsrAddr → a ≠ s.params.kbdrAddr →
      (memRead s.params.kbsrAddr s).2.storeRead a = s.storeRead a) ∧
    SameRegs s (memRead s.params.kbsrAddr s).2 ∧ (memRead s.params.kbsrAddr s).2.cond = s.cond ∧
    (memRead s.params.kbsrAddr s).2.pc = s.pc ∧ SameEngine s (memRead s.params.kbsrAddr s).2 ∧
    (memRead s.params.kbsrAddr s).2.output = s.output

/-- Every read but that of KBSR is a plain read with no effect, KBDR's among them: KBDR gives the key a KBSR read last
placed there, or what a store last wrote, and reading it does not clear KBSR (R65). What a KBSR read places there, and
the ready word it leaves in KBSR, are R64's (decisions D5, D6, D9; log entries 5, 6 and 27). -/
def Obligations.OtherReadsArePlain : Prop :=
  (∀ (a : Word) (s : State), a ≠ s.params.kbsrAddr → memRead a s = (s.storeRead a, s)) ∧
  (∀ s : State, ParamsOk s.params →
    memRead s.params.kbdrAddr s = (s.storeRead s.params.kbdrAddr, s) ∧
    (∀ (c : Byte) (rest : List (Option Byte)), s.keys = some c :: rest →
      (memRead s.params.kbdrAddr (memRead s.params.kbsrAddr s).2).1 = c.setWidth 16 ∧
      (memRead s.params.kbdrAddr (memRead s.params.kbsrAddr s).2).2.storeRead s.params.kbsrAddr =
        s.params.kbsrReady) ∧
    ∀ v : Word, (memRead s.params.kbdrAddr (s.memWrite s.params.kbdrAddr v)).1 = v)

/-- MemWrite sets its cell at every address and no other; what a store put at KBSR is replaced before a KBSR read
returns, so no load sees it; what it put at KBDR stays until a KBSR read finds a key (R66). -/
def Obligations.WritesHaveNoSpecialAddresses : Prop :=
  ∀ (s : State) (v : Word),
    (∀ a b : Word, (s.memWrite a v).storeRead b = if b = a then v else s.storeRead b) ∧
    memRead s.params.kbsrAddr (s.memWrite s.params.kbsrAddr v) = memRead s.params.kbsrAddr s ∧
    (ParamsOk s.params → (memRead s.params.kbdrAddr (s.memWrite s.params.kbdrAddr v)).1 = v ∧
      ((∀ c rest, s.keys ≠ some c :: rest) →
        (memRead s.params.kbdrAddr (memRead s.params.kbsrAddr (s.memWrite s.params.kbdrAddr v)).2).1 = v)) ∧
    (∀ a : Word, SameRegs s (s.memWrite a v) ∧ (s.memWrite a v).pc = s.pc ∧ (s.memWrite a v).cond = s.cond ∧
      SameEngine s (s.memWrite a v) ∧ SameHost s (s.memWrite a v))

/-- Memory changes by stores and keyboard polls only: an instruction that makes no data access leaves it as it is, and a
load leaves every cell but KBSR and KBDR (R61, R64, R70). -/
def Obligations.MemoryChangesByStoresAndPollsOnly : Prop :=
  (∀ (i : Instr) (s t : State), exec i s = .next t → isDataAccess i = false → t.mem = s.mem) ∧
  (∀ (i : Instr) (s t : State) (a : Word), exec i s = .next t → isStore i = false → a ≠ s.params.kbsrAddr →
    a ≠ s.params.kbdrAddr → t.storeRead a = s.storeRead a)

/-- A fetch at KBSR polls: with a key pending the word executed is the ready word, and where that is 0x8000, its default,
the engine takes the RTI fault there; with none it is 0x0000, a no-op (R352, R64, R270; decisions D5 to D7, log entries
5, 6 and 27). -/
def Obligations.FetchAtKbsrPolls : Prop :=
  ∀ s : State, ParamsOk s.params → AtInstruction s → s.pc = s.params.kbsrAddr →
    (∀ c rest, s.keys = some c :: rest → ∃ u, step s = exec (decode s.params.kbsrReady) u ∧ AtInstruction u ∧
      u.pc = s.params.kbsrAddr + 1#16 ∧ u.storeRead s.params.kbsrAddr = s.params.kbsrReady ∧
      u.storeRead s.params.kbdrAddr = c.setWidth 16 ∧ u.keys = rest ∧ SameRegs s u ∧ u.cond = s.cond ∧
      u.params = s.params) ∧
    (∀ c rest, s.keys = some c :: rest → s.params.kbsrReady = 0x8000#16 → ∃ t, step s = .next t ∧
      t.engine = .faulted ∧ t.faultCause = 1#8 ∧ t.faultPc = s.params.kbsrAddr ∧ t.faultIr = 0x8000#16 ∧
      t.pc = s.params.kbsrAddr + 1#16 ∧ t.storeRead s.params.kbdrAddr = c.setWidth 16 ∧ t.keys = rest) ∧
    (∀ rest, s.keys = none :: rest ∨ (s.keys = [] ∧ rest = []) → ∃ t, step s = .next t ∧ AtInstruction t ∧
      t.pc = s.params.kbsrAddr + 1#16 ∧ t.storeRead s.params.kbsrAddr = 0x0000#16 ∧ SameRegs s t ∧
      t.cond = s.cond ∧ t.keys = rest)

/-- On all-zero memory with no key to come the engine runs on, one word a step, for ever: after any number of steps it
is still Running, memory is still zero and pc has moved that far, mod 2^16 (R344, R110, R35). -/
def Obligations.ZeroMemoryRunsOnForever : Prop :=
  ∀ (k : Nat) (s : State), AtInstruction s → (∀ a : Word, s.storeRead a = 0x0000#16) → (∀ q ∈ s.keys, q = none) →
    ∃ t, runEvents (List.replicate k .step) s = some t ∧ AtInstruction t ∧ t.pc = s.pc + BitVec.ofNat 16 k ∧
      (∀ a : Word, t.storeRead a = 0x0000#16) ∧ SameRegs s t ∧ t.cond = s.cond ∧ t.output = s.output

/-! ## Preload, start and reset (spec/20_memory.md R79 to R84, spec/70_reset_and_hazards.md R341) -/

/-- Round trip of an image that fits: after loading origin O and words w0, w1, ... the cells from O on read exactly those
words; the first byte of a pair is bits 15..8 (R81, R80). -/
def Obligations.PreloadedImageReadsBack : Prop :=
  (∀ (s : State) (origin : Word) (ws : List Word), s.engine = .ready → origin.toNat + ws.length ≤ 65536 →
    ∃ t, preload (imageBytes (origin :: ws)) s = (.success, t) ∧
      ∀ (k : Nat) (h : k < ws.length), t.storeRead (BitVec.ofNat 16 (origin.toNat + k)) = ws[k]) ∧
  (∀ (hi lo : Byte) (rest : List Byte),
    imageWords (hi :: lo :: rest) = BitVec.ofNat 16 (hi.toNat * 256 + lo.toNat) :: imageWords rest)

/-- An image of any length in Ready: a cell that an image word below the boundary names holds it, every other cell is
left, the words past 0xFFFF are discarded without a wrap, and the load succeeds; nothing but memory changes (R80, R82;
decision D24, log entry 19). -/
def Obligations.PreloadStopsAtTheBoundary : Prop :=
  ∀ (s : State) (bytes : List Byte) (origin : Word) (ws : List Word), s.engine = .ready →
    imageWords bytes = origin :: ws →
    ∃ t, preload bytes s = (.success, t) ∧
      (∀ a : Word, t.storeRead a = if origin ≤ a then ws.getD (a.toNat - origin.toNat) (s.storeRead a)
        else s.storeRead a) ∧
      SameRegs s t ∧ t.pc = s.pc ∧ t.cond = s.cond ∧ SameEngine s t ∧ SameHost s t

/-- A stream of fewer than two bytes fails and stores nothing; a trailing odd byte is ignored; outside Ready `preload`
and `start` do nothing (R79, R80, R341; decisions D23 and D25, log entries 19 and 20). -/
def Obligations.ShortOddAndUntimelyPreloads : Prop :=
  (∀ (s : State) (bytes : List Byte), s.engine = .ready → bytes.length < 2 → preload bytes s = (.failure, s)) ∧
  (∀ (s : State) (bytes : List Byte) (b : Byte), bytes.length % 2 = 0 → preload (bytes ++ [b]) s = preload bytes s) ∧
  (∀ (s : State) (bytes : List Byte), s.engine ≠ .ready → preload bytes s = (.ignored, s) ∧ hostStart s = s)

/-- A load that fails partway: the host is told failure, some prefix of the words is stored (as far as it lies below the
boundary) and the rest is not, nothing else changes, and the engine may still be started on what memory then holds; a
stream that breaks before its first word stores nothing (R83). -/
def Obligations.BrokenPreloadStoresAPrefix : Prop :=
  (∀ (s : State) (bytes : List Byte) (origin : Word) (ws : List Word) (j : Nat), s.engine = .ready →
    imageWords bytes = origin :: ws →
    ∃ t, preloadBroken bytes j s = (.failure, t) ∧
      (∀ a : Word, t.storeRead a = if origin ≤ a then (ws.take j).getD (a.toNat - origin.toNat) (s.storeRead a)
        else s.storeRead a) ∧
      SameRegs s t ∧ t.pc = s.pc ∧ t.cond = s.cond ∧ SameEngine s t ∧ SameHost s t ∧
      (hostStart t).engine = .running ∧ (hostStart t).mem = t.mem) ∧
  (∀ (s : State) (bytes : List Byte) (j : Nat), s.engine = .ready → imageWords bytes = [] →
    preloadBroken bytes j s = (.failure, s))

/-- Whatever images are preloaded after a reset, whatever their origins, none is turned away for its origin and the
program is entered at 0x3000 (R84). That an image which runs past 0xFFFF loads with success too is decision D24, log entry
19; that `reset` is accepted in every state is decision D25, log entry 20. -/
def Obligations.ProgramIsEnteredAt3000 : Prop :=
  (∀ (s : State) (images : List (List Byte)),
    (hostStart (images.foldl (fun u b => (preload b u).2) (hostReset s))).pc = 0x3000#16 ∧
    (hostStart (images.foldl (fun u b => (preload b u).2) (hostReset s))).engine = .running) ∧
  (∀ (s : State) (bytes : List Byte), (preload bytes s).2.pc = s.pc) ∧
  (∀ (s : State) (origin : Word) (ws : List Word), s.engine = .ready →
    (preload (imageBytes (origin :: ws)) s).1 = .success)

/-! ## TRAP services (spec/44_trap.md) -/

/-- Every service answers a next state, writes no register but R0 and that in GETC and IN only, no cell, no flag, not R7
and not pc; the engine state changes in HALT only (R231, R237; decision D13, log entry 13). -/
def Obligations.ServicesWriteOnlyR0 : Prop :=
  ∀ (i : Instr) (s : State), isService i = true → ∃ t, exec i s = .next t ∧
    (∀ r : Reg, (r = 0#3 → i ≠ .trapGetc ∧ i ≠ .trapIn) → t.reg r = s.reg r) ∧
    t.mem = s.mem ∧ t.cond = s.cond ∧ t.pc = s.pc ∧ t.faultCause = s.faultCause ∧ t.faultPc = s.faultPc ∧
    t.faultIr = s.faultIr ∧ t.params = s.params ∧ t.engine = (if i = .trapHalt then .halted else s.engine)

/-- GETC with a key to come: the first key code goes to R0, zero-extended, without echo or flag, and is consumed; with
none the engine stays Running and waits inside GETC, everything else as it was (R232, R260; log entries 7 and 8). -/
def Obligations.GetcReadsOneKey : Prop :=
  (∀ (s : State) (m : Nat) (c : Byte) (rest : List (Option Byte)),
    s.keys = List.replicate m none ++ some c :: rest → s.service = none →
    ∃ t, exec .trapGetc s = .next t ∧ t.reg 0#3 = c.setWidth 16 ∧ t.keys = rest ∧ SameRegsBut 0#3 s t ∧
      t.pc = s.pc ∧ t.cond = s.cond ∧ SameMemory s t ∧ SameEngine s t ∧ t.output = s.output) ∧
  (∀ s : State, (∀ q ∈ s.keys, q = none) →
    exec .trapGetc s = .next (s.setService (some .getc)))

/-- IN with a key to come: the prompt, then the echo, then the code in R0, no flag; with none the prompt is sent and the
engine waits inside IN (R235, R260; decision D20, log entries 8 and 17). -/
def Obligations.InPromptsReadsAndEchoes : Prop :=
  (∀ (s : State) (m : Nat) (c : Byte) (rest : List (Option Byte)),
    s.keys = List.replicate m none ++ some c :: rest → s.service = none →
    ∃ t, exec .trapIn s = .next t ∧ t.reg 0#3 = c.setWidth 16 ∧ t.keys = rest ∧
      t.output = s.output ++ (Config.inPrompt ++ [c]).map OutEvent.byte ∧ SameRegsBut 0#3 s t ∧
      t.pc = s.pc ∧ t.cond = s.cond ∧ SameMemory s t ∧ SameEngine s t) ∧
  (∀ s : State, (∀ q ∈ s.keys, q = none) →
    exec .trapIn s = .next ((s.putBytes Config.inPrompt).setService (some .input)))

/-- OUT sends bits 7..0 of R0, no flush, and changes nothing else (R233). -/
def Obligations.OutSendsTheLowByte : Prop :=
  ∀ s : State, ∃ t, exec .trapOut s = .next t ∧ t.output = s.output ++ [.byte ((s.reg 0#3).setWidth 8)] ∧
    SameRegs s t ∧ t.pc = s.pc ∧ t.cond = s.cond ∧ SameMemory s t ∧ SameEngine s t ∧ t.keys = s.keys

/-- PUTS on a string, wherever it lies and though it wrap: the low byte of each word in order, then one flush; nothing
else changes (R234; decisions D9 to D11, log entries 10 and 11). -/
def Obligations.PutsSendsTheString : Prop :=
  ∀ (s : State) (ws : List Word), StringAt s (s.reg 0#3) ws → s.service = none →
    ∃ t, exec .trapPuts s = .next t ∧
      t.output = s.output ++ ws.map (fun w => .byte (w.setWidth 8)) ++ [.flush] ∧
      SameRegs s t ∧ t.pc = s.pc ∧ t.cond = s.cond ∧ SameMemory s t ∧ SameEngine s t ∧ t.keys = s.keys

/-- PUTSP on a string: of each word the low byte always, then the high byte if it is not zero, then one flush; nothing
else changes (R236, R68; decisions D9 to D11, log entries 10 and 11). -/
def Obligations.PutspSendsThePackedString : Prop :=
  ∀ (s : State) (ws : List Word), StringAt s (s.reg 0#3) ws → s.service = none →
    ∃ t, exec .trapPutsp s = .next t ∧
      t.output = s.output ++ ws.flatMap (fun w => .byte (w.setWidth 8) ::
        (if w.toNat / 256 = 0 then [] else [.byte (w.extractLsb' 8 8)])) ++ [.flush] ∧
      SameRegs s t ∧ t.pc = s.pc ∧ t.cond = s.cond ∧ SameMemory s t ∧ SameEngine s t ∧ t.keys = s.keys

/-- Where no cell of memory is zero, PUTS and PUTSP never end: however many steps the engine takes, it is Running, inside
the service, with the pc, registers and memory it had, and every step has sent more, no flush (decision D27, R234, R236;
log entry 9). -/
def Obligations.EndlessStringNeverEnds : Prop :=
  ∀ (s : State) (i : Instr) (k : Nat), AtInstruction s → (i = .trapPuts ∨ i = .trapPutsp) →
    (∀ a : Word, s.storeRead a ≠ 0x0000#16) →
    ∃ t u, exec i s = .next t ∧ runEvents (List.replicate k .step) t = some u ∧ u.engine = .running ∧
      u.service = some (if i = .trapPuts then .puts else .putsp) ∧ u.pc = s.pc ∧ SameRegs s u ∧ u.mem = s.mem ∧
      u.cond = s.cond ∧ ∃ more, u.output = s.output ++ more ∧ k < more.length ∧ OutEvent.flush ∉ more

/-- HALT sends its message and one flush and the engine is Halted; nothing else changes, and no further step does anything
(R237; decision D21, log entry 17). -/
def Obligations.HaltStopsTheEngine : Prop :=
  ∀ s : State, ∃ t, exec .trapHalt s = .next t ∧ t.engine = .halted ∧
    t.output = s.output ++ Config.haltMessage.map OutEvent.byte ++ [.flush] ∧ SameRegs s t ∧ t.pc = s.pc ∧
    t.cond = s.cond ∧ SameMemory s t ∧ t.keys = s.keys ∧ t.faultCause = s.faultCause ∧ t.faultPc = s.faultPc ∧
    t.faultIr = s.faultIr ∧ t.service = s.service ∧ t.params = s.params ∧
    ∀ k : Nat, runEvents (List.replicate k .step) t = some t

/-- A key that comes while GETC or IN waits is read as if it had been there when the instruction ran; until it comes the
wait changes nothing (R260, R324; log entry 8). -/
def Obligations.LateKeyIsReadLikeAnEarlyOne : Prop :=
  ∀ (s : State) (i : Instr) (c : Byte), AtInstruction s → (i = .trapGetc ∨ i = .trapIn) → (∀ q ∈ s.keys, q = none) →
    ∃ t, exec i s = .next t ∧ step t = .next t ∧ step (hostKey (some c) t) = exec i (hostKey (some c) s)

/-! ## Faults and the engine state (spec/60_exceptions.md, spec/45_reserved.md, spec/10_state.md R40) -/

/-- RTI, the reserved opcode and TRAP with an undefined vector take their faults: cause 1, 2, 3, the address and the word
recorded, the engine Faulted, nothing else changed (R270, R271, R238, R301, R302; decision D15, log entries 15, 16). A
term of the undefined-vector row that holds a service's vector stands for no word and is refused (log entry 23). -/
def Obligations.FaultsAreTakenAsDescribed : Prop :=
  ∀ (s : State) (rest : BitVec 12) (high : BitVec 4) (v : Byte),
    (∃ t, exec (.rti rest) s = .next t ∧ FaultTaken 1#8 (0x8000#16 ||| rest.setWidth 16) s t) ∧
    (∃ t, exec (.reserved rest) s = .next t ∧ FaultTaken 2#8 (0xD000#16 ||| rest.setWidth 16) s t) ∧
    (isServiceVector v = false → ∃ t, exec (.trapUndefined high v) s = .next t ∧
      FaultTaken 3#8 (0xF000#16 ||| high.setWidth 16 <<< 8 ||| v.setWidth 16) s t) ∧
    (isServiceVector v = true →
      exec (.trapUndefined high v) s = .refused (.illFormed "TRAP__undefined_vector"))

/-- A word with opcode 8 or 13, or a TRAP word with a vector outside 0x20..0x25, fetched away from KBSR: the step takes
the fault, and the record holds that very word and its address (R109, R111, R302, R303; decisions D1, D15). -/
def Obligations.FaultRecordsTheFetchedWord : Prop :=
  ∀ (s : State) (w : Word), AtInstruction s → s.pc ≠ s.params.kbsrAddr → s.storeRead s.pc = w →
    (w.toNat / 4096 = 8 ∨ w.toNat / 4096 = 13 ∨
      (w.toNat / 4096 = 15 ∧ (w.toNat % 256 < 0x20 ∨ 0x25 < w.toNat % 256))) →
    ∃ t, step s = .next t ∧ t.engine = .faulted ∧ t.faultPc = s.pc ∧ t.faultIr = w ∧ t.pc = s.pc + 1#16 ∧
      t.faultCause = (if w.toNat / 4096 = 8 then 1#8 else if w.toNat / 4096 = 13 then 2#8 else 3#8) ∧
      SameRegs s t ∧ t.cond = s.cond ∧ SameMemory s t ∧ SameHost s t

/-- The engine leaves Running by a HALT or by one of the three faults and by nothing else: a step that executes an
instruction leaves it so exactly for those, and a step inside a service does not leave it (R40, R301, R345; log entries 8
and 9). -/
def Obligations.OnlyHaltAndFaultsStopTheEngine : Prop :=
  (∀ s t : State, AtInstruction s → step s = .next t →
    (t.engine = .halted ↔ decode (memRead s.pc s).1 = .trapHalt) ∧
    (t.engine = .faulted ↔ isFaulting (decode (memRead s.pc s).1) = true) ∧ t.engine ≠ .ready) ∧
  (∀ s t : State, s.engine = .running → s.service ≠ none → step s = .next t → t.engine = .running)

/-- Halted and Faulted are left by `reset` alone: steps and every other host interaction keep them. The input wait is left
by `reset` and by a key code that the host supplies, and by nothing else: steps change nothing, and `start`, `preload`
and moments without a key keep the engine in it (R324, R260). That a step changes nothing is log entries 8 and 21, that
`preload` and `start` do nothing there and that `reset` leaves every state is decision D25, log entry 20. -/
def Obligations.TerminalStatesAreLeftByResetOnly : Prop :=
  (∀ s : State, s.engine = .halted ∨ s.engine = .faulted → step s = .next s ∧
    ∀ op : HostOp, op ≠ .reset → (hostApply op s).engine = s.engine ∧ (hostApply op s).mem = s.mem) ∧
  (∀ s : State, s.engine = .running → (s.service = some .getc ∨ s.service = some .input) → (∀ q ∈ s.keys, q = none) →
    step s = .next s ∧ ∀ op : HostOp, op ≠ .reset → (∀ c, op ≠ .key (some c)) →
      step (hostApply op s) = .next (hostApply op s) ∧ (hostApply op s).service = s.service) ∧
  (∀ s : State, s.engine = .running → (s.service = some .getc ∨ s.service = some .input) →
    (∃ c, some c ∈ s.keys) → ∃ t, step s = .next t ∧ AtInstruction t) ∧
  (∀ s : State, (hostApply .reset s).engine = .ready ∧ (hostApply .reset s).service = none)

/-- An engine that is not Running executes nothing; `start` takes Ready to Running at the pc it has (R40, R341;
log entry 21). -/
def Obligations.NothingExecutesOutsideRunning : Prop :=
  ∀ s : State, (s.engine ≠ .running → step s = .next s) ∧
    (s.engine = .ready → (hostStart s).engine = .running ∧ (hostStart s).pc = s.pc ∧ (hostStart s).mem = s.mem ∧
      SameRegs s (hostStart s) ∧ (hostStart s).cond = s.cond)

/-- `status` tells the four engine states apart, a fault from a halt among them, and gives the fault record in Faulted
only (R6, R40, R306; decision D29, log entry 15). -/
def Obligations.StatusTellsFaultFromHalt : Prop :=
  (∀ s : State, s.engine = .ready → status s = ⟨0, none⟩) ∧
  (∀ s : State, s.engine = .running → status s = ⟨1, none⟩) ∧
  (∀ s : State, s.engine = .halted → status s = ⟨2, none⟩) ∧
  (∀ s : State, s.engine = .faulted → status s = ⟨3, some ⟨s.faultCause, s.faultPc, s.faultIr⟩⟩) ∧
  (∀ s t : State, (status s).state = (status t).state ↔ s.engine = t.engine)

/-! ## The host's channels (R45, R261, R262) -/

/-- A step only appends to the output log and only takes keys from the front of the host's queue: bytes keep their order,
and a key is delivered once (R261, R262; log entries 7 and 18). -/
def Obligations.OutputGrowsAndKeysAreTakenInOrder : Prop :=
  ∀ s t : State, step s = .next t →
    (∃ more, t.output = s.output ++ more) ∧ (∃ taken, s.keys = taken ++ t.keys)

/-- An instruction that neither gets a key nor reads through MemRead does the same whatever keys the host holds, and takes
none (R61, R64, R262). -/
def Obligations.HostKeysReachOnlyReadersOfThem : Prop :=
  ∀ (i : Instr) (s : State) (ks : List (Option Byte)), mayReadHost i = false →
    exec i (s.withKeys ks) = mapNext (fun t => t.withKeys ks) (exec i s) ∧
    ∀ t, exec i s = .next t → t.keys = s.keys

/-- A flush makes every byte sent before it visible: after HALT, and after PUTS or PUTSP that has ended, all bytes sent are
visible; OUT sends its byte and makes nothing visible (R261, R262, R45; decision D22, log entry 18). -/
def Obligations.FlushMakesAllBytesVisible : Prop :=
  (∀ log : List OutEvent, flushedBytes (log ++ [.flush]) = outBytes log) ∧
  (∀ s t : State, exec .trapHalt s = .next t → flushedBytes t.output = outBytes t.output) ∧
  (∀ (i : Instr) (s t : State), (i = .trapPuts ∨ i = .trapPutsp) → exec i s = .next t → t.service = none →
    flushedBytes t.output = outBytes t.output) ∧
  (∀ s t : State, exec .trapOut s = .next t → flushedBytes t.output = flushedBytes s.output ∧
    outBytes t.output = outBytes s.output ++ [(s.reg 0#3).setWidth 8])
end

