-- ==== Sys2Proof/Laws/Decode.lean ====
section
/-! SUPPORT. Reading a field of a word built from placed fields (spec/30_encoding.md R101). -/

namespace Sys2Proof

theorem extract_or (x y : Word) (lo n : Nat) :
    (x ||| y).extractLsb' lo n = x.extractLsb' lo n ||| y.extractLsb' lo n := by
  ext i hi
  simp

/-- A field read where it was placed. -/
theorem extract_place_self {n : Nat} (v : BitVec n) (lo : Nat) (h : lo + n ≤ 16) :
    (place v lo).extractLsb' lo n = v := by
  apply BitVec.eq_of_getLsbD_eq
  intro i hi
  have hlt : lo + i < 16 := by omega
  simp [place, hlt, hi]

/-- A field read below every placed bit is clear. -/
theorem extract_place_below {n : Nat} (v : BitVec n) (lo k m : Nat) (h : k + m ≤ lo) :
    (place v lo).extractLsb' k m = 0#m := by
  apply BitVec.eq_of_getLsbD_eq
  intro i hi
  simp [place]
  intros
  omega

/-- A field read above every placed bit is clear. -/
theorem extract_place_above {n : Nat} (v : BitVec n) (lo k m : Nat) (h : lo + n ≤ k) :
    (place v lo).extractLsb' k m = 0#m := by
  apply BitVec.eq_of_getLsbD_eq
  intro i hi
  simp [place]
  intros
  exact BitVec.getLsbD_of_ge _ _ (by omega)

/-- A field put back where it was read is the word with every other bit clear. -/
theorem place_extract (w : Word) (lo n : Nat) :
    place (w.extractLsb' lo n) lo = w &&& (BitVec.allOnes n).setWidth 16 <<< lo := by
  ext i hi
  simp only [place, BitVec.getElem_shiftLeft, BitVec.getElem_and, BitVec.getElem_setWidth]
  by_cases h : i < lo
  · simp [h]
  · by_cases h' : i - lo < n
    · have e : lo + (i - lo) = i := by omega
      simp [h, h', e, BitVec.getLsbD_eq_getElem hi]
    · simp [h, h']

/-- Two masks of one word join. -/
theorem masks_or (w a b : Word) : (w &&& a) ||| (w &&& b) = w &&& (a ||| b) := by
  ext i hi
  simp only [BitVec.getElem_or, BitVec.getElem_and]
  cases w[i] <;> simp

/-- The opcode numbers and the handlers they select are inverse to one another (R102). -/
theorem ofCode_code (o : Opcode) : Opcode.ofCode o.code = o := by cases o <;> rfl

theorem code_ofCode (c : BitVec 4) : (Opcode.ofCode c).code = c := by revert c; decide

end Sys2Proof
end

