-- ==== Sys2Proof/Laws/State.lean ====
section
/-! SUPPORT. One lemma per field of State per update, true by rfl: no later proof unfolds a record update. -/

namespace Sys2Proof.Machine

variable (s : State)

/-! ### setReg -/

@[simp] theorem setReg_regs (i : Reg) (v : Word) : (s.setReg i v).regs = s.regs.set i.toNat v i.isLt := rfl
@[simp] theorem setReg_pc (i : Reg) (v : Word) : (s.setReg i v).pc = s.pc := rfl
@[simp] theorem setReg_cond (i : Reg) (v : Word) : (s.setReg i v).cond = s.cond := rfl
@[simp] theorem setReg_engine (i : Reg) (v : Word) : (s.setReg i v).engine = s.engine := rfl
@[simp] theorem setReg_faultCause (i : Reg) (v : Word) : (s.setReg i v).faultCause = s.faultCause := rfl
@[simp] theorem setReg_faultPc (i : Reg) (v : Word) : (s.setReg i v).faultPc = s.faultPc := rfl
@[simp] theorem setReg_faultIr (i : Reg) (v : Word) : (s.setReg i v).faultIr = s.faultIr := rfl
@[simp] theorem setReg_mem (i : Reg) (v : Word) : (s.setReg i v).mem = s.mem := rfl
@[simp] theorem setReg_keys (i : Reg) (v : Word) : (s.setReg i v).keys = s.keys := rfl
@[simp] theorem setReg_output (i : Reg) (v : Word) : (s.setReg i v).output = s.output := rfl
@[simp] theorem setReg_service (i : Reg) (v : Word) : (s.setReg i v).service = s.service := rfl
@[simp] theorem setReg_params (i : Reg) (v : Word) : (s.setReg i v).params = s.params := rfl

/-! ### setPc -/

@[simp] theorem setPc_regs (v : Word) : (s.setPc v).regs = s.regs := rfl
@[simp] theorem setPc_pc (v : Word) : (s.setPc v).pc = v := rfl
@[simp] theorem setPc_cond (v : Word) : (s.setPc v).cond = s.cond := rfl
@[simp] theorem setPc_engine (v : Word) : (s.setPc v).engine = s.engine := rfl
@[simp] theorem setPc_faultCause (v : Word) : (s.setPc v).faultCause = s.faultCause := rfl
@[simp] theorem setPc_faultPc (v : Word) : (s.setPc v).faultPc = s.faultPc := rfl
@[simp] theorem setPc_faultIr (v : Word) : (s.setPc v).faultIr = s.faultIr := rfl
@[simp] theorem setPc_mem (v : Word) : (s.setPc v).mem = s.mem := rfl
@[simp] theorem setPc_keys (v : Word) : (s.setPc v).keys = s.keys := rfl
@[simp] theorem setPc_output (v : Word) : (s.setPc v).output = s.output := rfl
@[simp] theorem setPc_service (v : Word) : (s.setPc v).service = s.service := rfl
@[simp] theorem setPc_params (v : Word) : (s.setPc v).params = s.params := rfl

/-! ### setcc -/

@[simp] theorem setcc_regs (v : Word) : (setcc v s).regs = s.regs := rfl
@[simp] theorem setcc_pc (v : Word) : (setcc v s).pc = s.pc := rfl
@[simp] theorem setcc_cond (v : Word) : (setcc v s).cond = flagOf v := rfl
@[simp] theorem setcc_engine (v : Word) : (setcc v s).engine = s.engine := rfl
@[simp] theorem setcc_faultCause (v : Word) : (setcc v s).faultCause = s.faultCause := rfl
@[simp] theorem setcc_faultPc (v : Word) : (setcc v s).faultPc = s.faultPc := rfl
@[simp] theorem setcc_faultIr (v : Word) : (setcc v s).faultIr = s.faultIr := rfl
@[simp] theorem setcc_mem (v : Word) : (setcc v s).mem = s.mem := rfl
@[simp] theorem setcc_keys (v : Word) : (setcc v s).keys = s.keys := rfl
@[simp] theorem setcc_output (v : Word) : (setcc v s).output = s.output := rfl
@[simp] theorem setcc_service (v : Word) : (setcc v s).service = s.service := rfl
@[simp] theorem setcc_params (v : Word) : (setcc v s).params = s.params := rfl

/-! ### writeResult -/

@[simp] theorem writeResult_regs (d : Reg) (v : Word) : (writeResult d v s).regs = s.regs.set d.toNat v d.isLt := rfl
@[simp] theorem writeResult_pc (d : Reg) (v : Word) : (writeResult d v s).pc = s.pc := rfl
@[simp] theorem writeResult_cond (d : Reg) (v : Word) : (writeResult d v s).cond = flagOf v := rfl
@[simp] theorem writeResult_engine (d : Reg) (v : Word) : (writeResult d v s).engine = s.engine := rfl
@[simp] theorem writeResult_faultCause (d : Reg) (v : Word) : (writeResult d v s).faultCause = s.faultCause := rfl
@[simp] theorem writeResult_faultPc (d : Reg) (v : Word) : (writeResult d v s).faultPc = s.faultPc := rfl
@[simp] theorem writeResult_faultIr (d : Reg) (v : Word) : (writeResult d v s).faultIr = s.faultIr := rfl
@[simp] theorem writeResult_mem (d : Reg) (v : Word) : (writeResult d v s).mem = s.mem := rfl
@[simp] theorem writeResult_keys (d : Reg) (v : Word) : (writeResult d v s).keys = s.keys := rfl
@[simp] theorem writeResult_output (d : Reg) (v : Word) : (writeResult d v s).output = s.output := rfl
@[simp] theorem writeResult_service (d : Reg) (v : Word) : (writeResult d v s).service = s.service := rfl
@[simp] theorem writeResult_params (d : Reg) (v : Word) : (writeResult d v s).params = s.params := rfl

/-! ### memWrite -/

@[simp] theorem memWrite_regs (a v : Word) : (s.memWrite a v).regs = s.regs := rfl
@[simp] theorem memWrite_pc (a v : Word) : (s.memWrite a v).pc = s.pc := rfl
@[simp] theorem memWrite_cond (a v : Word) : (s.memWrite a v).cond = s.cond := rfl
@[simp] theorem memWrite_engine (a v : Word) : (s.memWrite a v).engine = s.engine := rfl
@[simp] theorem memWrite_faultCause (a v : Word) : (s.memWrite a v).faultCause = s.faultCause := rfl
@[simp] theorem memWrite_faultPc (a v : Word) : (s.memWrite a v).faultPc = s.faultPc := rfl
@[simp] theorem memWrite_faultIr (a v : Word) : (s.memWrite a v).faultIr = s.faultIr := rfl
@[simp] theorem memWrite_mem (a v : Word) : (s.memWrite a v).mem = s.mem.write a.toNat v := rfl
@[simp] theorem memWrite_keys (a v : Word) : (s.memWrite a v).keys = s.keys := rfl
@[simp] theorem memWrite_output (a v : Word) : (s.memWrite a v).output = s.output := rfl
@[simp] theorem memWrite_service (a v : Word) : (s.memWrite a v).service = s.service := rfl
@[simp] theorem memWrite_params (a v : Word) : (s.memWrite a v).params = s.params := rfl

/-! ### putBytes -/

@[simp] theorem putBytes_regs (bs : List Byte) : (s.putBytes bs).regs = s.regs := rfl
@[simp] theorem putBytes_pc (bs : List Byte) : (s.putBytes bs).pc = s.pc := rfl
@[simp] theorem putBytes_cond (bs : List Byte) : (s.putBytes bs).cond = s.cond := rfl
@[simp] theorem putBytes_engine (bs : List Byte) : (s.putBytes bs).engine = s.engine := rfl
@[simp] theorem putBytes_faultCause (bs : List Byte) : (s.putBytes bs).faultCause = s.faultCause := rfl
@[simp] theorem putBytes_faultPc (bs : List Byte) : (s.putBytes bs).faultPc = s.faultPc := rfl
@[simp] theorem putBytes_faultIr (bs : List Byte) : (s.putBytes bs).faultIr = s.faultIr := rfl
@[simp] theorem putBytes_mem (bs : List Byte) : (s.putBytes bs).mem = s.mem := rfl
@[simp] theorem putBytes_keys (bs : List Byte) : (s.putBytes bs).keys = s.keys := rfl
@[simp] theorem putBytes_output (bs : List Byte) : (s.putBytes bs).output = s.output ++ bs.map OutEvent.byte := rfl
@[simp] theorem putBytes_service (bs : List Byte) : (s.putBytes bs).service = s.service := rfl
@[simp] theorem putBytes_params (bs : List Byte) : (s.putBytes bs).params = s.params := rfl

/-! ### putFlush -/

@[simp] theorem putFlush_regs : (s.putFlush).regs = s.regs := rfl
@[simp] theorem putFlush_pc : (s.putFlush).pc = s.pc := rfl
@[simp] theorem putFlush_cond : (s.putFlush).cond = s.cond := rfl
@[simp] theorem putFlush_engine : (s.putFlush).engine = s.engine := rfl
@[simp] theorem putFlush_faultCause : (s.putFlush).faultCause = s.faultCause := rfl
@[simp] theorem putFlush_faultPc : (s.putFlush).faultPc = s.faultPc := rfl
@[simp] theorem putFlush_faultIr : (s.putFlush).faultIr = s.faultIr := rfl
@[simp] theorem putFlush_mem : (s.putFlush).mem = s.mem := rfl
@[simp] theorem putFlush_keys : (s.putFlush).keys = s.keys := rfl
@[simp] theorem putFlush_output : (s.putFlush).output = s.output ++ [OutEvent.flush] := rfl
@[simp] theorem putFlush_service : (s.putFlush).service = s.service := rfl
@[simp] theorem putFlush_params : (s.putFlush).params = s.params := rfl

/-! ### setService -/

@[simp] theorem setService_regs (k : Option Service) : (s.setService k).regs = s.regs := rfl
@[simp] theorem setService_pc (k : Option Service) : (s.setService k).pc = s.pc := rfl
@[simp] theorem setService_cond (k : Option Service) : (s.setService k).cond = s.cond := rfl
@[simp] theorem setService_engine (k : Option Service) : (s.setService k).engine = s.engine := rfl
@[simp] theorem setService_faultCause (k : Option Service) : (s.setService k).faultCause = s.faultCause := rfl
@[simp] theorem setService_faultPc (k : Option Service) : (s.setService k).faultPc = s.faultPc := rfl
@[simp] theorem setService_faultIr (k : Option Service) : (s.setService k).faultIr = s.faultIr := rfl
@[simp] theorem setService_mem (k : Option Service) : (s.setService k).mem = s.mem := rfl
@[simp] theorem setService_keys (k : Option Service) : (s.setService k).keys = s.keys := rfl
@[simp] theorem setService_output (k : Option Service) : (s.setService k).output = s.output := rfl
@[simp] theorem setService_service (k : Option Service) : (s.setService k).service = k := rfl
@[simp] theorem setService_params (k : Option Service) : (s.setService k).params = s.params := rfl

/-! ### raiseFault -/

@[simp] theorem raiseFault_regs (c : FaultCause) (ir : Word) : (raiseFault c ir s).regs = s.regs := rfl
@[simp] theorem raiseFault_pc (c : FaultCause) (ir : Word) : (raiseFault c ir s).pc = s.pc := rfl
@[simp] theorem raiseFault_cond (c : FaultCause) (ir : Word) : (raiseFault c ir s).cond = s.cond := rfl
@[simp] theorem raiseFault_engine (c : FaultCause) (ir : Word) : (raiseFault c ir s).engine = Engine.faulted := rfl
@[simp] theorem raiseFault_faultCause (c : FaultCause) (ir : Word) : (raiseFault c ir s).faultCause = c.code := rfl
@[simp] theorem raiseFault_faultPc (c : FaultCause) (ir : Word) : (raiseFault c ir s).faultPc = s.pc - 1#16 := rfl
@[simp] theorem raiseFault_faultIr (c : FaultCause) (ir : Word) : (raiseFault c ir s).faultIr = ir := rfl
@[simp] theorem raiseFault_mem (c : FaultCause) (ir : Word) : (raiseFault c ir s).mem = s.mem := rfl
@[simp] theorem raiseFault_keys (c : FaultCause) (ir : Word) : (raiseFault c ir s).keys = s.keys := rfl
@[simp] theorem raiseFault_output (c : FaultCause) (ir : Word) : (raiseFault c ir s).output = s.output := rfl
@[simp] theorem raiseFault_service (c : FaultCause) (ir : Word) : (raiseFault c ir s).service = s.service := rfl
@[simp] theorem raiseFault_params (c : FaultCause) (ir : Word) : (raiseFault c ir s).params = s.params := rfl

/-! ### haltEngine -/

@[simp] theorem haltEngine_regs : (haltEngine s).regs = s.regs := rfl
@[simp] theorem haltEngine_pc : (haltEngine s).pc = s.pc := rfl
@[simp] theorem haltEngine_cond : (haltEngine s).cond = s.cond := rfl
@[simp] theorem haltEngine_engine : (haltEngine s).engine = Engine.halted := rfl
@[simp] theorem haltEngine_faultCause : (haltEngine s).faultCause = s.faultCause := rfl
@[simp] theorem haltEngine_faultPc : (haltEngine s).faultPc = s.faultPc := rfl
@[simp] theorem haltEngine_faultIr : (haltEngine s).faultIr = s.faultIr := rfl
@[simp] theorem haltEngine_mem : (haltEngine s).mem = s.mem := rfl
@[simp] theorem haltEngine_keys : (haltEngine s).keys = s.keys := rfl
@[simp] theorem haltEngine_output : (haltEngine s).output = s.output := rfl
@[simp] theorem haltEngine_service : (haltEngine s).service = s.service := rfl
@[simp] theorem haltEngine_params : (haltEngine s).params = s.params := rfl

/-! ### saveLink -/

@[simp] theorem saveLink_regs : (saveLink s).regs = s.regs.set linkReg.toNat s.pc linkReg.isLt := rfl
@[simp] theorem saveLink_pc : (saveLink s).pc = s.pc := rfl
@[simp] theorem saveLink_cond : (saveLink s).cond = s.cond := rfl
@[simp] theorem saveLink_engine : (saveLink s).engine = s.engine := rfl
@[simp] theorem saveLink_faultCause : (saveLink s).faultCause = s.faultCause := rfl
@[simp] theorem saveLink_faultPc : (saveLink s).faultPc = s.faultPc := rfl
@[simp] theorem saveLink_faultIr : (saveLink s).faultIr = s.faultIr := rfl
@[simp] theorem saveLink_mem : (saveLink s).mem = s.mem := rfl
@[simp] theorem saveLink_keys : (saveLink s).keys = s.keys := rfl
@[simp] theorem saveLink_output : (saveLink s).output = s.output := rfl
@[simp] theorem saveLink_service : (saveLink s).service = s.service := rfl
@[simp] theorem saveLink_params : (saveLink s).params = s.params := rfl

/-! ### hostReset -/

@[simp] theorem hostReset_regs : (hostReset s).regs = (State.resetWith s.params).regs := rfl
@[simp] theorem hostReset_pc : (hostReset s).pc = (State.resetWith s.params).pc := rfl
@[simp] theorem hostReset_cond : (hostReset s).cond = (State.resetWith s.params).cond := rfl
@[simp] theorem hostReset_engine : (hostReset s).engine = (State.resetWith s.params).engine := rfl
@[simp] theorem hostReset_faultCause : (hostReset s).faultCause = (State.resetWith s.params).faultCause := rfl
@[simp] theorem hostReset_faultPc : (hostReset s).faultPc = (State.resetWith s.params).faultPc := rfl
@[simp] theorem hostReset_faultIr : (hostReset s).faultIr = (State.resetWith s.params).faultIr := rfl
@[simp] theorem hostReset_mem : (hostReset s).mem = (State.resetWith s.params).mem := rfl
@[simp] theorem hostReset_keys : (hostReset s).keys = s.keys := rfl
@[simp] theorem hostReset_output : (hostReset s).output = s.output := rfl
@[simp] theorem hostReset_service : (hostReset s).service = (State.resetWith s.params).service := rfl
@[simp] theorem hostReset_params : (hostReset s).params = s.params := rfl

/-! ### hostKey -/

@[simp] theorem hostKey_regs (k : Option Byte) : (hostKey k s).regs = s.regs := rfl
@[simp] theorem hostKey_pc (k : Option Byte) : (hostKey k s).pc = s.pc := rfl
@[simp] theorem hostKey_cond (k : Option Byte) : (hostKey k s).cond = s.cond := rfl
@[simp] theorem hostKey_engine (k : Option Byte) : (hostKey k s).engine = s.engine := rfl
@[simp] theorem hostKey_faultCause (k : Option Byte) : (hostKey k s).faultCause = s.faultCause := rfl
@[simp] theorem hostKey_faultPc (k : Option Byte) : (hostKey k s).faultPc = s.faultPc := rfl
@[simp] theorem hostKey_faultIr (k : Option Byte) : (hostKey k s).faultIr = s.faultIr := rfl
@[simp] theorem hostKey_mem (k : Option Byte) : (hostKey k s).mem = s.mem := rfl
@[simp] theorem hostKey_keys (k : Option Byte) : (hostKey k s).keys = s.keys ++ [k] := rfl
@[simp] theorem hostKey_output (k : Option Byte) : (hostKey k s).output = s.output := rfl
@[simp] theorem hostKey_service (k : Option Byte) : (hostKey k s).service = s.service := rfl
@[simp] theorem hostKey_params (k : Option Byte) : (hostKey k s).params = s.params := rfl

/-! ### placeAndStart -/

@[simp] theorem placeAndStart_regs (w : Word) : (placeAndStart s w).regs = s.regs := rfl
@[simp] theorem placeAndStart_pc (w : Word) : (placeAndStart s w).pc = placeAddr s := rfl
@[simp] theorem placeAndStart_cond (w : Word) : (placeAndStart s w).cond = s.cond := rfl
@[simp] theorem placeAndStart_engine (w : Word) : (placeAndStart s w).engine = Engine.running := rfl
@[simp] theorem placeAndStart_faultCause (w : Word) : (placeAndStart s w).faultCause = s.faultCause := rfl
@[simp] theorem placeAndStart_faultPc (w : Word) : (placeAndStart s w).faultPc = s.faultPc := rfl
@[simp] theorem placeAndStart_faultIr (w : Word) : (placeAndStart s w).faultIr = s.faultIr := rfl
@[simp] theorem placeAndStart_mem (w : Word) : (placeAndStart s w).mem = s.mem.write (placeAddr s).toNat w := rfl
@[simp] theorem placeAndStart_keys (w : Word) : (placeAndStart s w).keys = s.keys := rfl
@[simp] theorem placeAndStart_output (w : Word) : (placeAndStart s w).output = s.output := rfl
@[simp] theorem placeAndStart_service (w : Word) : (placeAndStart s w).service = none := rfl
@[simp] theorem placeAndStart_params (w : Word) : (placeAndStart s w).params = s.params := rfl

end Sys2Proof.Machine
end

