-- ==== Sys2Proof/Laws/Memory.lean ====
section
/-! SUPPORT. The laws of the memory (spec/20_memory.md R66, R74): a read gives the last write, a write leaves every other
cell alone, and every operation keeps the canonical form. -/

namespace Sys2Proof.Machine

/-! ## Read after write -/

theorem read_erase (m : Memory) (a b : Nat) :
    (m.erase a).read b = if b = a then unlistedCell else m.read b := by
  induction m with
  | nil => simp [Memory.erase, Memory.read]
  | cons c rest ih =>
    obtain ⟨k, v⟩ := c
    simp only [Memory.erase] at ih ⊢
    by_cases hk : k = a
    · subst hk
      rw [List.filter_cons_of_neg (by simp), ih, Memory.read]
      split <;> rename_i hb
      · rfl
      · rw [if_neg (Ne.symm hb)]
    · rw [List.filter_cons_of_pos (by simpa using hk), Memory.read, Memory.read, ih]
      by_cases hb : k = b
      · subst hb; simp [hk]
      · simp [hb]

theorem read_insert (m : Memory) (a b : Nat) (v : Word) (hm : ∀ c ∈ m, c.1 ≠ a) :
    (m.insert a v).read b = if b = a then v else m.read b := by
  induction m with
  | nil => simp [Memory.insert, Memory.read, eq_comm]
  | cons c rest ih =>
    obtain ⟨k, x⟩ := c
    have hk : k ≠ a := hm (k, x) (by simp)
    have ih := ih (fun c hc => hm c (by simp [hc]))
    unfold Memory.insert
    split
    · simp only [Memory.read]
      by_cases hb : a = b
      · simp [hb]
      · simp [hb, Ne.symm hb]
    · simp only [Memory.read, ih]
      by_cases hb : k = b
      · subst hb; simp [hk]
      · simp [hb]

theorem not_mem_erase (m : Memory) (a : Nat) : ∀ c ∈ m.erase a, c.1 ≠ a := by
  intro c hc
  simpa [Memory.erase] using (List.mem_filter.mp hc).2

/-- A write is seen at its own address and at no other. -/
theorem read_write (m : Memory) (a b : Nat) (v : Word) :
    (m.write a v).read b = if b = a then v else m.read b := by
  unfold Memory.write
  split
  · next h => rw [read_erase, h]
  · rw [read_insert _ _ _ _ (not_mem_erase m a), read_erase]
    split <;> simp_all

/-! ## The last of two writes to one address -/

theorem erase_insert (m : Memory) (a : Nat) (v : Word) : (m.insert a v).erase a = m.erase a := by
  induction m with
  | nil => simp [Memory.insert, Memory.erase]
  | cons c rest ih =>
    unfold Memory.insert
    split
    · simp [Memory.erase]
    · simp only [Memory.erase, List.filter_cons] at ih ⊢
      rw [ih]

theorem erase_erase (m : Memory) (a : Nat) : (m.erase a).erase a = m.erase a := by
  simp [Memory.erase]

theorem erase_write (m : Memory) (a : Nat) (v : Word) : (m.write a v).erase a = m.erase a := by
  unfold Memory.write
  split
  · exact erase_erase m a
  · rw [erase_insert, erase_erase]

/-- A second write to the same address leaves nothing of the first. -/
theorem write_write (m : Memory) (a : Nat) (v w : Word) : (m.write a v).write a w = m.write a w := by
  show (if w = unlistedCell then (m.write a v).erase a else ((m.write a v).erase a).insert a w) = m.write a w
  rw [erase_write]
  rfl

/-! ## The canonical form -/

theorem wf_cons {k : Nat} {v : Word} {rest : Memory} :
    Memory.wf ((k, v) :: rest) = true ↔
      k < 65536 ∧ v ≠ unlistedCell ∧ (∀ c ∈ rest, k < c.1) ∧ Memory.wf rest = true := by
  simp [Memory.wf, and_assoc]

theorem wf_nil : Memory.wf [] = true := rfl

theorem wf_erase {m : Memory} (a : Nat) (h : m.wf = true) : (m.erase a).wf = true := by
  induction m with
  | nil => exact h
  | cons c rest ih =>
    obtain ⟨k, v⟩ := c
    obtain ⟨hk, hv, hr, hw⟩ := wf_cons.mp h
    simp only [Memory.erase, List.filter_cons] at ih ⊢
    split
    · exact wf_cons.mpr ⟨hk, hv, fun c hc => hr c (List.mem_of_mem_filter hc), ih hw⟩
    · exact ih hw

theorem mem_insert {m : Memory} {a : Nat} {v : Word} {c : Nat × Word} (h : c ∈ m.insert a v) :
    c = (a, v) ∨ c ∈ m := by
  induction m with
  | nil => left; simpa [Memory.insert] using h
  | cons d rest ih =>
    unfold Memory.insert at h
    split at h
    · simpa using h
    · rcases List.mem_cons.mp h with rfl | h
      · simp
      · rcases ih h with h | h <;> simp [h]

theorem wf_insert {m : Memory} {a : Nat} {v : Word} (ha : a < 65536) (hv : v ≠ unlistedCell)
    (hn : ∀ c ∈ m, c.1 ≠ a) (h : m.wf = true) : (m.insert a v).wf = true := by
  induction m with
  | nil => exact wf_cons.mpr ⟨ha, hv, by simp, rfl⟩
  | cons c rest ih =>
    obtain ⟨k, x⟩ := c
    obtain ⟨hk, hx, hr, hw⟩ := wf_cons.mp h
    unfold Memory.insert
    split
    · next hlt =>
      refine wf_cons.mpr ⟨ha, hv, fun c hc => ?_, h⟩
      rcases List.mem_cons.mp hc with rfl | hc
      · exact hlt
      · exact Nat.lt_trans hlt (hr c hc)
    · next hge =>
      have hka : k < a := by
        have := hn (k, x) (by simp)
        simp only at hge this
        omega
      refine wf_cons.mpr ⟨hk, hx, fun c hc => ?_, ih (fun c hc => hn c (by simp [hc])) hw⟩
      rcases mem_insert hc with rfl | hc
      · exact hka
      · exact hr c hc

/-- Every write at an address of the space keeps the canonical form. -/
theorem wf_write {m : Memory} {a : Nat} (v : Word) (ha : a < 65536) (h : m.wf = true) : (m.write a v).wf = true := by
  unfold Memory.write
  split
  · exact wf_erase a h
  · next hv => exact wf_insert ha hv (not_mem_erase m a) (wf_erase a h)

theorem wf_resetWith (p : Config.Params) : (State.resetWith p).mem.wf = true := rfl

theorem wf_memWrite {s : State} (a v : Word) (h : s.mem.wf = true) : (s.memWrite a v).mem.wf = true :=
  wf_write v a.isLt h

/-! ## Reading a cell of the state after an update -/

variable (s : State)

@[simp] theorem storeRead_memWrite (a v b : Word) :
    (s.memWrite a v).storeRead b = if b = a then v else s.storeRead b := by
  simp [State.storeRead, read_write, BitVec.toNat_inj]

/-- Two states with the same memory read the same cells. -/
theorem storeRead_congr {s t : State} (h : t.mem = s.mem) (a : Word) : t.storeRead a = s.storeRead a := by
  simp [State.storeRead, h]

@[simp] theorem storeRead_setReg (i : Reg) (v a : Word) : (s.setReg i v).storeRead a = s.storeRead a := rfl
@[simp] theorem storeRead_setPc (v a : Word) : (s.setPc v).storeRead a = s.storeRead a := rfl
@[simp] theorem storeRead_setcc (v a : Word) : (setcc v s).storeRead a = s.storeRead a := rfl
@[simp] theorem storeRead_writeResult (d : Reg) (v a : Word) : (writeResult d v s).storeRead a = s.storeRead a := rfl
@[simp] theorem storeRead_saveLink (a : Word) : (saveLink s).storeRead a = s.storeRead a := rfl
@[simp] theorem storeRead_putBytes (bs : List Byte) (a : Word) : (s.putBytes bs).storeRead a = s.storeRead a := rfl
@[simp] theorem storeRead_putFlush (a : Word) : s.putFlush.storeRead a = s.storeRead a := rfl
@[simp] theorem storeRead_setService (k : Option Service) (a : Word) :
    (s.setService k).storeRead a = s.storeRead a := rfl
@[simp] theorem storeRead_raiseFault (c : FaultCause) (ir a : Word) :
    (raiseFault c ir s).storeRead a = s.storeRead a := rfl
@[simp] theorem storeRead_haltEngine (a : Word) : (haltEngine s).storeRead a = s.storeRead a := rfl

end Sys2Proof.Machine
end

