-- ==== Sys2Proof/Laws/Registers.lean ====
section
/-! SUPPORT. Reading a general register after each update (spec/10_state.md R30): a register reads back the last value
written to it, and no other update touches it. -/

namespace Sys2Proof.Machine

variable (s : State)

@[simp] theorem reg_setReg_self (i : Reg) (v : Word) : (s.setReg i v).reg i = v := by
  simp [State.reg]

theorem reg_setReg_of_ne {i j : Reg} (v : Word) (h : j ≠ i) : (s.setReg i v).reg j = s.reg j := by
  have hn : i.toNat ≠ j.toNat := fun e => h (BitVec.eq_of_toNat_eq e.symm)
  simp [State.reg, Vector.getElem_set_ne, hn]

theorem reg_setReg (i j : Reg) (v : Word) : (s.setReg i v).reg j = if j = i then v else s.reg j := by
  split
  · next h => subst h; simp
  · next h => exact reg_setReg_of_ne s v h

@[simp] theorem reg_writeResult (d j : Reg) (v : Word) :
    (writeResult d v s).reg j = if j = d then v else s.reg j := reg_setReg s d j v

@[simp] theorem reg_saveLink (j : Reg) : (saveLink s).reg j = if j = linkReg then s.pc else s.reg j :=
  reg_setReg s linkReg j s.pc

/-- Two states with the same register file read the same registers. -/
theorem reg_congr {s t : State} (h : t.regs = s.regs) (i : Reg) : t.reg i = s.reg i := by
  simp [State.reg, h]

@[simp] theorem reg_setPc (v : Word) (i : Reg) : (s.setPc v).reg i = s.reg i := rfl
@[simp] theorem reg_setcc (v : Word) (i : Reg) : (setcc v s).reg i = s.reg i := rfl
@[simp] theorem reg_memWrite (a v : Word) (i : Reg) : (s.memWrite a v).reg i = s.reg i := rfl
@[simp] theorem reg_putBytes (bs : List Byte) (i : Reg) : (s.putBytes bs).reg i = s.reg i := rfl
@[simp] theorem reg_putFlush (i : Reg) : s.putFlush.reg i = s.reg i := rfl
@[simp] theorem reg_setService (k : Option Service) (i : Reg) : (s.setService k).reg i = s.reg i := rfl
@[simp] theorem reg_raiseFault (c : FaultCause) (ir : Word) (i : Reg) : (raiseFault c ir s).reg i = s.reg i := rfl
@[simp] theorem reg_haltEngine (i : Reg) : (haltEngine s).reg i = s.reg i := rfl

end Sys2Proof.Machine
end

