-- ==== Sys2Proof/Laws/Ops.lean ====
section
/-! SUPPORT. What each shared operation can do, said once: a read with its keyboard poll (spec/20_memory.md R64, R65),
taking a key (spec/44_trap.md R260), the walk over a string (R234, R236) and one step (spec/30_encoding.md R111). -/

namespace Sys2Proof.Machine

variable (s : State)

/-! ## The keyboard poll -/

/-- The poll consumes at most the head of the host's queue and writes only the two device cells. -/
theorem pollKeyboard_cases :
    (∃ c rest, s.keys = some c :: rest ∧
      pollKeyboard s = (({ s with keys := rest } : State).memWrite s.params.kbsrAddr s.params.kbsrReady).memWrite
        s.params.kbdrAddr (keyWord c)) ∨
    (∃ rest, (s.keys = none :: rest ∨ s.keys = [] ∧ rest = []) ∧
      pollKeyboard s = ({ s with keys := rest } : State).memWrite s.params.kbsrAddr 0x0000#16) := by
  obtain ⟨regs, pc, cond, engine, fc, fp, fi, mem, keys, output, service, params⟩ := s
  match keys with
  | [] => exact .inr ⟨[], .inr ⟨rfl, rfl⟩, rfl⟩
  | none :: rest => exact .inr ⟨rest, .inl rfl, rfl⟩
  | some c :: rest => exact .inl ⟨c, rest, rfl, rfl⟩

@[simp] theorem pollKeyboard_regs : (pollKeyboard s).regs = s.regs := by
  obtain ⟨c, rest, -, h⟩ | ⟨rest, -, h⟩ := pollKeyboard_cases s <;> simp [h]
@[simp] theorem pollKeyboard_pc : (pollKeyboard s).pc = s.pc := by
  obtain ⟨c, rest, -, h⟩ | ⟨rest, -, h⟩ := pollKeyboard_cases s <;> simp [h]
@[simp] theorem pollKeyboard_cond : (pollKeyboard s).cond = s.cond := by
  obtain ⟨c, rest, -, h⟩ | ⟨rest, -, h⟩ := pollKeyboard_cases s <;> simp [h]
@[simp] theorem pollKeyboard_engine : (pollKeyboard s).engine = s.engine := by
  obtain ⟨c, rest, -, h⟩ | ⟨rest, -, h⟩ := pollKeyboard_cases s <;> simp [h]
@[simp] theorem pollKeyboard_faultCause : (pollKeyboard s).faultCause = s.faultCause := by
  obtain ⟨c, rest, -, h⟩ | ⟨rest, -, h⟩ := pollKeyboard_cases s <;> simp [h]
@[simp] theorem pollKeyboard_faultPc : (pollKeyboard s).faultPc = s.faultPc := by
  obtain ⟨c, rest, -, h⟩ | ⟨rest, -, h⟩ := pollKeyboard_cases s <;> simp [h]
@[simp] theorem pollKeyboard_faultIr : (pollKeyboard s).faultIr = s.faultIr := by
  obtain ⟨c, rest, -, h⟩ | ⟨rest, -, h⟩ := pollKeyboard_cases s <;> simp [h]
@[simp] theorem pollKeyboard_output : (pollKeyboard s).output = s.output := by
  obtain ⟨c, rest, -, h⟩ | ⟨rest, -, h⟩ := pollKeyboard_cases s <;> simp [h]
@[simp] theorem pollKeyboard_params : (pollKeyboard s).params = s.params := by
  obtain ⟨c, rest, -, h⟩ | ⟨rest, -, h⟩ := pollKeyboard_cases s <;> simp [h]
@[simp] theorem pollKeyboard_service : (pollKeyboard s).service = s.service := by
  obtain ⟨c, rest, -, h⟩ | ⟨rest, -, h⟩ := pollKeyboard_cases s <;> simp [h]

theorem wf_pollKeyboard (h : s.mem.wf = true) : (pollKeyboard s).mem.wf = true := by
  obtain ⟨c, rest, -, hp⟩ | ⟨rest, -, hp⟩ := pollKeyboard_cases s <;> rw [hp]
  · exact wf_memWrite _ _ (wf_memWrite _ _ h)
  · exact wf_memWrite _ _ h

/-- The poll leaves every cell but KBSR and KBDR alone. -/
theorem storeRead_pollKeyboard_of_ne {a : Word} (h1 : a ≠ s.params.kbsrAddr) (h2 : a ≠ s.params.kbdrAddr) :
    (pollKeyboard s).storeRead a = s.storeRead a := by
  obtain ⟨c, rest, -, h⟩ | ⟨rest, -, h⟩ := pollKeyboard_cases s <;> simp [h, h1, h2] <;> rfl

/-! ## A read -/

theorem readEffect_of_ne {a : Word} (h : a ≠ s.params.kbsrAddr) : readEffect a s = s := if_neg h

theorem readEffect_kbsr : readEffect s.params.kbsrAddr s = pollKeyboard s := if_pos rfl

/-- A read at any address but KBSR is plain (R65). -/
theorem memRead_of_ne {a : Word} (h : a ≠ s.params.kbsrAddr) : memRead a s = (s.storeRead a, s) := by
  simp [memRead, readEffect_of_ne s h]

@[simp] theorem memRead_fst (a : Word) : (memRead a s).1 = (readEffect a s).storeRead a := rfl
@[simp] theorem memRead_snd (a : Word) : (memRead a s).2 = readEffect a s := rfl

variable (a : Word)

@[simp] theorem readEffect_regs : (readEffect a s).regs = s.regs := by unfold readEffect; split <;> simp
@[simp] theorem readEffect_pc : (readEffect a s).pc = s.pc := by unfold readEffect; split <;> simp
@[simp] theorem readEffect_cond : (readEffect a s).cond = s.cond := by unfold readEffect; split <;> simp
@[simp] theorem readEffect_engine : (readEffect a s).engine = s.engine := by unfold readEffect; split <;> simp
@[simp] theorem readEffect_faultCause : (readEffect a s).faultCause = s.faultCause := by
  unfold readEffect; split <;> simp
@[simp] theorem readEffect_faultPc : (readEffect a s).faultPc = s.faultPc := by unfold readEffect; split <;> simp
@[simp] theorem readEffect_faultIr : (readEffect a s).faultIr = s.faultIr := by unfold readEffect; split <;> simp
@[simp] theorem readEffect_output : (readEffect a s).output = s.output := by unfold readEffect; split <;> simp
@[simp] theorem readEffect_service : (readEffect a s).service = s.service := by unfold readEffect; split <;> simp
@[simp] theorem readEffect_params : (readEffect a s).params = s.params := by unfold readEffect; split <;> simp
@[simp] theorem readEffect_reg (i : Reg) : (readEffect a s).reg i = s.reg i := reg_congr (readEffect_regs s a) i

theorem wf_readEffect (h : s.mem.wf = true) : (readEffect a s).mem.wf = true := by
  unfold readEffect
  split
  · exact wf_pollKeyboard s h
  · exact h

theorem storeRead_readEffect_of_ne {b : Word} (h1 : b ≠ s.params.kbsrAddr) (h2 : b ≠ s.params.kbdrAddr) :
    (readEffect a s).storeRead b = s.storeRead b := by
  unfold readEffect
  split
  · exact storeRead_pollKeyboard_of_ne s h1 h2
  · rfl

/-! ## Taking a key -/

/-- `takeKey` answers the first key code of the queue and what stands after it. -/
theorem takeKey_eq_some {ks : List (Option Byte)} {c : Byte} {rest : List (Option Byte)} :
    takeKey ks = some (c, rest) ↔ ∃ n, ks = List.replicate n none ++ some c :: rest := by
  induction ks with
  | nil => simp [takeKey]
  | cons k ks ih =>
    cases k with
    | none =>
      rw [takeKey, ih]
      constructor
      · rintro ⟨n, rfl⟩
        exact ⟨n + 1, by simp [List.replicate_succ]⟩
      · rintro ⟨n, hn⟩
        cases n with
        | zero => simp at hn
        | succ n => exact ⟨n, by simpa [List.replicate_succ] using hn⟩
    | some d =>
      rw [takeKey]
      constructor
      · intro h
        obtain ⟨rfl, rfl⟩ : d = c ∧ ks = rest := by simpa using h
        exact ⟨0, rfl⟩
      · rintro ⟨n, hn⟩
        cases n with
        | zero => simpa using hn
        | succ n => simp [List.replicate_succ] at hn

/-- `takeKey` answers nothing exactly where the queue holds no key code. -/
theorem takeKey_eq_none {ks : List (Option Byte)} : takeKey ks = none ↔ ∀ k ∈ ks, k = none := by
  induction ks with
  | nil => simp [takeKey]
  | cons k ks ih => cases k <;> simp [takeKey, ih]

/-- `in_get` answers the queue's first key and consumes it, or answers nothing. -/
theorem inGet_cases :
    (takeKey s.keys = none ∧ inGet s = none) ∨
    ∃ c rest, takeKey s.keys = some (c, rest) ∧ inGet s = some (c, { s with keys := rest }) := by
  unfold inGet
  rcases h : takeKey s.keys with _ | ⟨c, rest⟩ <;> simp

/-! ## The services -/

/-- GETC takes a key into R0, or waits. -/
theorem runGetc_cases :
    (∃ c rest, takeKey s.keys = some (c, rest) ∧
      runGetc s = (({ s with keys := rest } : State).setReg charReg (keyWord c)).setService none) ∨
    (takeKey s.keys = none ∧ runGetc s = s.setService (some .getc)) := by
  unfold runGetc
  obtain ⟨h, h'⟩ | ⟨c, rest, h, h'⟩ := inGet_cases s <;> simp [h, h']

/-- IN takes a key, echoes it and puts it into R0, or waits. -/
theorem runIn_cases :
    (∃ c rest, takeKey s.keys = some (c, rest) ∧
      runIn s = ((({ s with keys := rest } : State).putBytes [c]).setReg charReg (keyWord c)).setService none) ∨
    (takeKey s.keys = none ∧ runIn s = s.setService (some .input)) := by
  unfold runIn
  obtain ⟨h, h'⟩ | ⟨c, rest, h, h'⟩ := inGet_cases s <;> simp [h, h']

/-- PUTS and PUTSP send bytes, then either flush and end or go on. -/
theorem runString_cases (k : Service) (bytesOf : Word → List Byte) :
    (∃ bs, runString k bytesOf s = ((s.putBytes bs).putFlush).setService none) ∨
    (∃ bs, runString k bytesOf s = (s.putBytes bs).setService (some k)) := by
  unfold runString
  split
  · exact .inl ⟨_, rfl⟩
  · exact .inr ⟨_, rfl⟩

@[simp] theorem runGetc_params : (runGetc s).params = s.params := by
  obtain ⟨c, rest, -, h⟩ | ⟨-, h⟩ := runGetc_cases s <;> simp [h]
@[simp] theorem runIn_params : (runIn s).params = s.params := by
  obtain ⟨c, rest, -, h⟩ | ⟨-, h⟩ := runIn_cases s <;> simp [h]
@[simp] theorem runString_params (k : Service) (bytesOf : Word → List Byte) :
    (runString k bytesOf s).params = s.params := by
  obtain ⟨bs, h⟩ | ⟨bs, h⟩ := runString_cases s k bytesOf <;> simp [h]
@[simp] theorem runGetc_engine : (runGetc s).engine = s.engine := by
  obtain ⟨c, rest, -, h⟩ | ⟨-, h⟩ := runGetc_cases s <;> simp [h]
@[simp] theorem runIn_engine : (runIn s).engine = s.engine := by
  obtain ⟨c, rest, -, h⟩ | ⟨-, h⟩ := runIn_cases s <;> simp [h]
@[simp] theorem runString_engine (k : Service) (bytesOf : Word → List Byte) :
    (runString k bytesOf s).engine = s.engine := by
  obtain ⟨bs, h⟩ | ⟨bs, h⟩ := runString_cases s k bytesOf <;> simp [h]

/-- A service that goes on changes no parameter and no engine state. -/
@[simp] theorem resumeService_params (k : Service) : (resumeService k s).params = s.params := by
  cases k <;> simp [resumeService]
@[simp] theorem resumeService_engine (k : Service) : (resumeService k s).engine = s.engine := by
  cases k <;> simp [resumeService]

/-! ## The walk over a string -/

/-- Over a string shorter than the bound, the walk gives the characters of its words and ends. -/
theorem walkString_of_stringAt (bytesOf : Word → List Byte) (ws : List Word) (n : Nat) (h : StringAt s a ws)
    (hn : ws.length < n) : walkString bytesOf s.mem n a = (ws.flatMap bytesOf, true) := by
  induction ws generalizing a n with
  | nil =>
    obtain ⟨n, rfl⟩ : ∃ m, n = m + 1 := ⟨n - 1, by omega⟩
    have h : s.mem.read a.toNat = 0x0000#16 := h
    simp [walkString, h]
  | cons w ws ih =>
    obtain ⟨n, rfl⟩ : ∃ m, n = m + 1 := ⟨n - 1, by simp at hn; omega⟩
    obtain ⟨h1, h2, h3⟩ := h
    have h1 : s.mem.read a.toNat = w := h1
    have hlt : ws.length < n := by simpa using hn
    simp [walkString, h1, h2, ih (a + 1#16) n h3 hlt]

/-- Where no cell is zero the walk does not end. -/
theorem walkString_endless (bytesOf : Word → List Byte) (n : Nat) (h : ∀ b : Word, s.storeRead b ≠ 0x0000#16) :
    (walkString bytesOf s.mem n a).2 = false := by
  induction n generalizing a with
  | zero => rfl
  | succ n ih =>
    have ha : s.mem.read a.toNat ≠ 0x0000#16 := h a
    simp [walkString, ha, ih (a + 1#16)]

/-! ## One step -/

/-- What a step can do: run the fetched instruction, go on with a service, or nothing. -/
theorem step_cases :
    (s.engine = .running ∧ s.service = none ∧ step s = exec (decode (fetch s).1) (fetch s).2) ∨
    (∃ k, s.engine = .running ∧ s.service = some k ∧ step s = .next (resumeService k s)) ∨
    (s.engine ≠ .running ∧ step s = .next s) := by
  unfold step
  rcases he : s.engine with _ | _ | _ | _ <;> rcases hs : s.service with _ | k <;> simp [idle]

end Sys2Proof.Machine
end

