-- ==== Sys2Proof/Laws/Exec.lean ====
section
/-! SUPPORT. What each instruction answers, over the shared operations: one equation per constructor of Instr, so that no
proof unfolds exec. -/

namespace Sys2Proof.Machine

variable (s : State)

theorem exec_br (n z p : BitVec 1) (off : BitVec 9) :
    exec (.br n z p off) s = .next (if branchTaken n z p s then s.setPc (addrPc9 off s) else s) := rfl

theorem exec_addReg (d a b : Reg) : exec (.addReg d a b) s = .next (writeResult d (s.reg a + s.reg b) s) := rfl

theorem exec_addImm (d a : Reg) (imm : BitVec 5) :
    exec (.addImm d a imm) s = .next (writeResult d (s.reg a + sext imm) s) := rfl

theorem exec_andReg (d a b : Reg) : exec (.andReg d a b) s = .next (writeResult d (s.reg a &&& s.reg b) s) := rfl

theorem exec_andImm (d a : Reg) (imm : BitVec 5) :
    exec (.andImm d a imm) s = .next (writeResult d (s.reg a &&& sext imm) s) := rfl

theorem exec_not (d a : Reg) : exec (.not d a) s = .next (writeResult d (~~~(s.reg a)) s) := rfl

theorem exec_jmp (b : Reg) : exec (.jmp b) s = .next (s.setPc (s.reg b)) := rfl

theorem exec_jsr (off : BitVec 11) : exec (.jsr off) s = .next ((saveLink s).setPc (s.pc + sext off)) := rfl

theorem exec_jsrr (b : Reg) : exec (.jsrr b) s = .next ((saveLink s).setPc ((saveLink s).reg b)) := rfl

theorem exec_ld (d : Reg) (off : BitVec 9) : exec (.ld d off) s = .next (loadInto d (addrPc9 off s) s) := rfl

theorem exec_ldi (d : Reg) (off : BitVec 9) :
    exec (.ldi d off) s = .next (loadInto d (memRead (addrPc9 off s) s).1 (memRead (addrPc9 off s) s).2) := rfl

theorem exec_ldr (d b : Reg) (off : BitVec 6) :
    exec (.ldr d b off) s = .next (loadInto d (addrBase6 b off s) s) := rfl

theorem exec_lea (d : Reg) (off : BitVec 9) : exec (.lea d off) s = .next (writeResult d (addrPc9 off s) s) := rfl

theorem exec_st (r : Reg) (off : BitVec 9) : exec (.st r off) s = .next (s.memWrite (addrPc9 off s) (s.reg r)) := rfl

theorem exec_sti (r : Reg) (off : BitVec 9) :
    exec (.sti r off) s = .next ((memRead (addrPc9 off s) s).2.memWrite (memRead (addrPc9 off s) s).1 (s.reg r)) := rfl

theorem exec_str (r b : Reg) (off : BitVec 6) :
    exec (.str r b off) s = .next (s.memWrite (addrBase6 b off s) (s.reg r)) := rfl

theorem exec_trapGetc : exec .trapGetc s = .next (runGetc s) := rfl

theorem exec_trapOut : exec .trapOut s = .next (s.putBytes [lowByte (s.reg charReg)]) := rfl

theorem exec_trapPuts : exec .trapPuts s = .next (runString .puts putsBytes s) := rfl

theorem exec_trapIn : exec .trapIn s = .next (runIn (s.putBytes Config.inPrompt)) := rfl

theorem exec_trapPutsp : exec .trapPutsp s = .next (runString .putsp putspBytes s) := rfl

theorem exec_trapHalt : exec .trapHalt s = .next (haltEngine ((s.putBytes Config.haltMessage).putFlush)) := rfl

theorem exec_rti (rest : BitVec 12) : exec (.rti rest) s = .next (raiseFault .rti (encode (.rti rest)) s) := rfl

theorem exec_reserved (rest : BitVec 12) :
    exec (.reserved rest) s = .next (raiseFault .reserved (encode (.reserved rest)) s) := rfl

/-- TRAP with an undefined vector faults; a term that holds a service's vector is refused. -/
theorem exec_trapUndefined (high : BitVec 4) (v : Byte) :
    exec (.trapUndefined high v) s =
      if isServiceVector v then .refused (.illFormed "TRAP__undefined_vector")
      else .next (raiseFault .badTrap (encode (.trapUndefined high v)) s) := rfl

/-- A well-formed TRAP with an undefined vector faults. -/
theorem exec_trapUndefined_of_wellFormed {high : BitVec 4} {v : Byte} (h : isServiceVector v = false) :
    exec (.trapUndefined high v) s = .next (raiseFault .badTrap (encode (.trapUndefined high v)) s) := by
  rw [exec_trapUndefined, if_neg (by simp [h])]

/-- No instruction changes a parameter (log entry 27). -/
theorem exec_params {i : Instr} {s t : State} (h : exec i s = .next t) : t.params = s.params := by
  cases i
  case trapUndefined high v => rw [exec_trapUndefined] at h; split at h <;> cases h; rfl
  case br => rw [exec_br] at h; cases h; split <;> rfl
  all_goals cases h; first | rfl | simp [loadInto, addrIndirect9]

end Sys2Proof.Machine
end

