-- ==== Sys2Proof/Laws/PerInstr.lean ====
section
/-! SUPPORT. The family OpcodeField: the opcode bits of every instruction's word are the number the opcode map gives its
handler (spec/30_encoding.md R100, R102). One lemma per constructor of Instr. -/

namespace Sys2Proof.Laws.OpcodeField

/-- The handler of an instruction (R102). -/
def handlerOf : Instr → Opcode
  | .br .. => .br
  | .addReg .. | .addImm .. => .add
  | .ld .. => .ld
  | .st .. => .st
  | .jsr .. | .jsrr .. => .jsr
  | .andReg .. | .andImm .. => .and
  | .ldr .. => .ldr
  | .str .. => .str
  | .rti .. => .rti
  | .not .. => .not
  | .ldi .. => .ldi
  | .sti .. => .sti
  | .jmp .. => .jmp
  | .reserved .. => .reserved
  | .lea .. => .lea
  | .trapGetc | .trapOut | .trapPuts | .trapIn | .trapPutsp | .trapHalt | .trapUndefined .. => .trap

/-- The opcode field of the instruction's word selects the instruction's handler. -/
def Statement (i : Instr) : Prop := Opcode.ofCode (opcodeField (encode i)) = handlerOf i

theorem br (n z p : BitVec 1) (off : BitVec 9) : Statement (.br n z p off) := by
  simp [Statement, handlerOf, encode, opcodeField, extract_or, extract_place_self, extract_place_above,
    ofCode_code]

theorem addReg (d a b : Reg) : Statement (.addReg d a b) := by
  simp [Statement, handlerOf, encode, opcodeField, extract_or, extract_place_self, extract_place_above,
    ofCode_code]

theorem addImm (d a : Reg) (i : BitVec 5) : Statement (.addImm d a i) := by
  simp [Statement, handlerOf, encode, opcodeField, extract_or, extract_place_self, extract_place_above,
    ofCode_code]

theorem ld (d : Reg) (off : BitVec 9) : Statement (.ld d off) := by
  simp [Statement, handlerOf, encode, opcodeField, extract_or, extract_place_self, extract_place_above,
    ofCode_code]

theorem st (r : Reg) (off : BitVec 9) : Statement (.st r off) := by
  simp [Statement, handlerOf, encode, opcodeField, extract_or, extract_place_self, extract_place_above,
    ofCode_code]

theorem jsr (off : BitVec 11) : Statement (.jsr off) := by
  simp [Statement, handlerOf, encode, opcodeField, extract_or, extract_place_self, extract_place_above,
    ofCode_code]

theorem jsrr (b : Reg) : Statement (.jsrr b) := by
  simp [Statement, handlerOf, encode, opcodeField, extract_or, extract_place_self, extract_place_above,
    ofCode_code]

theorem andReg (d a b : Reg) : Statement (.andReg d a b) := by
  simp [Statement, handlerOf, encode, opcodeField, extract_or, extract_place_self, extract_place_above,
    ofCode_code]

theorem andImm (d a : Reg) (i : BitVec 5) : Statement (.andImm d a i) := by
  simp [Statement, handlerOf, encode, opcodeField, extract_or, extract_place_self, extract_place_above,
    ofCode_code]

theorem ldr (d b : Reg) (off : BitVec 6) : Statement (.ldr d b off) := by
  simp [Statement, handlerOf, encode, opcodeField, extract_or, extract_place_self, extract_place_above,
    ofCode_code]

theorem str (r b : Reg) (off : BitVec 6) : Statement (.str r b off) := by
  simp [Statement, handlerOf, encode, opcodeField, extract_or, extract_place_self, extract_place_above,
    ofCode_code]

theorem rti (rest : BitVec 12) : Statement (.rti rest) := by
  simp [Statement, handlerOf, encode, opcodeField, extract_or, extract_place_self, extract_place_above,
    ofCode_code]

theorem not (d a : Reg) : Statement (.not d a) := by
  simp [Statement, handlerOf, encode, opcodeField, extract_or, extract_place_self, extract_place_above,
    ofCode_code]

theorem ldi (d : Reg) (off : BitVec 9) : Statement (.ldi d off) := by
  simp [Statement, handlerOf, encode, opcodeField, extract_or, extract_place_self, extract_place_above,
    ofCode_code]

theorem sti (r : Reg) (off : BitVec 9) : Statement (.sti r off) := by
  simp [Statement, handlerOf, encode, opcodeField, extract_or, extract_place_self, extract_place_above,
    ofCode_code]

theorem jmp (b : Reg) : Statement (.jmp b) := by
  simp [Statement, handlerOf, encode, opcodeField, extract_or, extract_place_self, extract_place_above,
    ofCode_code]

theorem reserved (rest : BitVec 12) : Statement (.reserved rest) := by
  simp [Statement, handlerOf, encode, opcodeField, extract_or, extract_place_self, extract_place_above,
    ofCode_code]

theorem lea (d : Reg) (off : BitVec 9) : Statement (.lea d off) := by
  simp [Statement, handlerOf, encode, opcodeField, extract_or, extract_place_self, extract_place_above,
    ofCode_code]

theorem trapGetc : Statement .trapGetc := rfl

theorem trapOut : Statement .trapOut := rfl

theorem trapPuts : Statement .trapPuts := rfl

theorem trapIn : Statement .trapIn := rfl

theorem trapPutsp : Statement .trapPutsp := rfl

theorem trapHalt : Statement .trapHalt := rfl

theorem trapUndefined (high : BitVec 4) (v : Byte) : Statement (.trapUndefined high v) := by
  simp [Statement, handlerOf, encode, opcodeField, extract_or, extract_place_self, extract_place_above,
    ofCode_code]

end Sys2Proof.Laws.OpcodeField
end

