-- ==== Sys2Proof/Tests/Slice0.lean ====
section
/-! SUPPORT. Tests. Expected results come from spec/95_test_vectors.md and the rules' own examples; encodings are written
out from spec/30_encoding.md R101. Then one witness per statement of Certificates/Slice0/Obligations.lean that has
hypotheses. -/

namespace Sys2Proof.Tests

open Sys2Proof.Machine

/-! ## Well-formedness: the one check refuses each of the six service vectors (R238) -/

theorem test_wellFormed_refuses_service_vectors :
    ∀ v ∈ [0x20#8, 0x21#8, 0x22#8, 0x23#8, 0x24#8, 0x25#8],
      Instr.wellFormed (.trapUndefined 0#4 v) = false := by decide

theorem test_wellFormed_accepts_other_vectors :
    ∀ v ∈ [0x00#8, 0x1F#8, 0x26#8, 0xFF#8], Instr.wellFormed (.trapUndefined 0xF#4 v) = true := by decide

theorem test_illFormed_is_refused :
    ∃ r, exec (.trapUndefined 0#4 0x25#8) State.reset = .refused r := ⟨_, rfl⟩

/-! ## Decoding: every constructor, from a word written out from R101 -/

theorem test_decode_br : decode 0b0000_0_1_0_000000010#16 = .br 0#1 1#1 0#1 2#9 := by decide
theorem test_decode_addReg : decode 0b0001_010_000_0_00_001#16 = .addReg 2#3 0#3 1#3 := by decide
theorem test_decode_addReg_ignored : decode 0b0001_010_000_0_11_001#16 = .addReg 2#3 0#3 1#3 := by decide
theorem test_decode_addImm : decode 0b0001_000_001_1_11101#16 = .addImm 0#3 1#3 0b11101#5 := by decide
theorem test_decode_ld : decode 0b0010_101_100000001#16 = .ld 5#3 0b100000001#9 := by decide
theorem test_decode_st : decode 0b0011_110_000000010#16 = .st 6#3 2#9 := by decide
theorem test_decode_jsr : decode 0b0100_1_10000000001#16 = .jsr 0b10000000001#11 := by decide
theorem test_decode_jsrr : decode 0b0100_0_11_011_111111#16 = .jsrr 3#3 := by decide
theorem test_decode_andReg : decode 0b0101_011_001_0_00_010#16 = .andReg 3#3 1#3 2#3 := by decide
theorem test_decode_andImm : decode 0b0101_000_111_1_10000#16 = .andImm 0#3 7#3 0b10000#5 := by decide
theorem test_decode_ldr : decode 0b0110_010_011_111111#16 = .ldr 2#3 3#3 0b111111#6 := by decide
theorem test_decode_str : decode 0b0111_010_011_000100#16 = .str 2#3 3#3 4#6 := by decide
theorem test_decode_rti : decode 0b1000_000000000001#16 = .rti 1#12 := by decide
theorem test_decode_not : decode 0b1001_100_101_000000#16 = .not 4#3 5#3 := by decide
theorem test_decode_ldi : decode 0b1010_001_000000001#16 = .ldi 1#3 1#9 := by decide
theorem test_decode_sti : decode 0b1011_001_000000001#16 = .sti 1#3 1#9 := by decide
theorem test_decode_jmp : decode 0b1100_111_010_111111#16 = .jmp 2#3 := by decide
theorem test_decode_reserved : decode 0b1101_111010101101#16 = .reserved 0xEAD#12 := by decide
theorem test_decode_lea : decode 0b1110_000_111111111#16 = .lea 0#3 0b111111111#9 := by decide
theorem test_decode_getc : decode 0b1111_0000_00100000#16 = .trapGetc := by decide
theorem test_decode_out : decode 0b1111_0101_00100001#16 = .trapOut := by decide
theorem test_decode_puts : decode 0b1111_0000_00100010#16 = .trapPuts := by decide
theorem test_decode_in : decode 0b1111_0000_00100011#16 = .trapIn := by decide
theorem test_decode_putsp : decode 0b1111_0000_00100100#16 = .trapPutsp := by decide
theorem test_decode_halt : decode 0b1111_1111_00100101#16 = .trapHalt := by decide
theorem test_decode_undefined : decode 0b1111_0000_00100110#16 = .trapUndefined 0#4 0x26#8 := by decide

/-- The encoder gives the spec's example words (R113, R144, R172). -/
theorem test_encode_examples :
    encode (.jmp 7#3) = 0xC1C0#16 ∧ encode .trapGetc = 0xF020#16 ∧ encode (.not 4#3 5#3) = 0x997F#16 ∧
      encode (.jsr 5#11) = 0x4805#16 ∧ encode (.andReg 3#3 1#3 2#3) = 0x5642#16 := by decide

/-- The rows of the opcode table do not overlap, but for the last, which gives way to the services (the table's note). -/
theorem test_rows_do_not_overlap :
    (opcodeTable.take 24).Pairwise (fun r q => r.pattern &&& q.mask ≠ q.pattern &&& r.mask) := by decide

theorem test_table_has_25_rows : opcodeTable.length = 25 := by decide

theorem test_decodeTableWord : decodeTableWord 16 0xFF25 = some .trapHalt ∧ decodeTableWord 16 0x10000 = none := by
  decide

theorem test_decodeBytes :
    decodeBytes [0x48#8, 0x05#8, 0x99#8] = .ok (.jsr 5#11, [0x99#8]) ∧ decodeBytes [0x48#8] = .error .halfWord ∧
      decodeBytes [] = .error .noWord := ⟨rfl, rfl, rfl⟩

/-! ## One step -/

/-- A Running engine at `pc`, registers and cells as listed, everything else as reset leaves it; the word at `pc` is
`w`. -/
def start (pc w : Word) (regs : List (Reg × Word)) (cells : List (Word × Word)) (keys : List (Option Byte)) : State :=
  let s := { State.reset with pc := pc, engine := .running, keys := keys }
  let s := regs.foldl (fun u r => u.setReg r.1 r.2) s
  (cells.foldl (fun u c => u.memWrite c.1 c.2) s).memWrite pc w

/-- The state after one step (no step of this machine stops). -/
def after (s : State) : State :=
  match step s with
  | .next t => t
  | _ => s

/-- Reset: R46. -/
theorem test_reset : State.reset.pc = 0x3000#16 ∧ State.reset.engine = .ready ∧ State.reset.cond = 0b010#3 := by decide

theorem test_addReg_wraps : (after (start 0x3000 0x1401 [(0, 0xFFFF), (1, 1)] [] [])).reg 2 = 0x0000#16 ∧
    (after (start 0x3000 0x1401 [(0, 0xFFFF), (1, 1)] [] [])).cond = flagZero := by decide
theorem test_addReg_same_register : (after (start 0x3000 0x1241 [(1, 0x4001)] [] [])).reg 1 = 0x8002#16 ∧
    (after (start 0x3000 0x1241 [(1, 0x4001)] [] [])).cond = flagNegative := by decide
theorem test_addImm_source_example : (after (start 0x3000 0x107D [(1, 5)] [] [])).reg 0 = 0x0002#16 ∧
    (after (start 0x3000 0x107D [(1, 5)] [] [])).cond = flagPositive := by decide
theorem test_addImm_min : (after (start 0x3000 0x1030 [(0, 0x0010)] [] [])).reg 0 = 0x0000#16 := by decide
theorem test_andReg : (after (start 0x3000 0x5642 [(1, 0xF000), (2, 0x8001)] [] [])).reg 3 = 0x8000#16 ∧
    (after (start 0x3000 0x5642 [(1, 0xF000), (2, 0x8001)] [] [])).cond = flagNegative := by decide
theorem test_andImm : (after (start 0x3000 0x5070 [(1, 0x1234)] [] [])).reg 0 = 0x1230#16 := by decide
theorem test_not : (after (start 0x3000 0x997F [(5, 0x00FF)] [] [])).reg 4 = 0xFF00#16 ∧
    (after (start 0x3000 0x997F [(5, 0x00FF)] [] [])).pc = 0x3001#16 := by decide

theorem test_br_taken : (after (start 0x3000 0x0402 [] [] [])).pc = 0x3003#16 := by decide
theorem test_br_wraps : (after ({ start 0xFFF0 0x0EFF [] [] [] with cond := flagPositive })).pc = 0x00F0#16 := by decide
theorem test_jmp_ret : (after (start 0x3000 0xC1C0 [(7, 0x3005)] [] [])).pc = 0x3005#16 := by decide
theorem test_jsr_back : (after (start 0x3000 0x4C00 [] [] [])).pc = 0x2C01#16 ∧
    (after (start 0x3000 0x4C00 [] [] [])).reg 7 = 0x3001#16 := by decide
theorem test_jsrr : (after (start 0x3000 0x40C0 [(3, 0x4000)] [] [])).pc = 0x4000#16 ∧
    (after (start 0x3000 0x40C0 [(3, 0x4000)] [] [])).reg 7 = 0x3001#16 := by decide
theorem test_jsrr_r7 : (after (start 0x3000 0x41C0 [(7, 0x5000)] [] [])).pc = 0x3001#16 := by decide

theorem test_ld_pc_wraps : (after (start 0xFFFF 0x2001 [] [(0x0001, 0x0007)] [])).reg 0 = 0x0007#16 ∧
    (after (start 0xFFFF 0x2001 [] [(0x0001, 0x0007)] [])).pc = 0x0000#16 := by decide
theorem test_ld_from_kbsr : (after (start 0xFDF0 0x200F [] [] [some 0x41])).reg 0 = 0x8000#16 ∧
    (after (start 0xFDF0 0x200F [] [] [some 0x41])).storeRead 0xFE02 = 0x0041#16 := by decide
theorem test_ldi : (after (start 0x3000 0xA201 [] [(0x3002, 0x4000), (0x4000, 0xBEEF)] [])).reg 1 = 0xBEEF#16 := by
  decide
theorem test_ldi_kbsr_no_key : (after (start 0x3000 0xA201 [] [(0x3002, 0xFE00), (0xFE00, 0x1234)] [none])).reg 1 =
    0x0000#16 := by decide
theorem test_ldr_wraps : (after (start 0x3000 0x64C1 [(3, 0xFFFF)] [(0x0000, 0x0009)] [])).reg 2 = 0x0009#16 := by
  decide
theorem test_ldr_base_is_dr : (after (start 0x3000 0x66C0 [(3, 0x4000)] [(0x4000, 0x0055)] [])).reg 3 = 0x0055#16 := by
  decide
theorem test_lea : (after (start 0x9000 0xE1FF [] [] [])).reg 0 = 0x9000#16 ∧
    (after (start 0x9000 0xE1FF [] [] [])).cond = flagNegative := by decide
theorem test_lea_of_kbsr_no_poll : (after (start 0xFDFE 0xE001 [] [] [some 0x41])).keys = [some 0x41#8] := by decide

theorem test_st : (after (start 0x3000 0x3002 [(0, 0x1234)] [] [])).storeRead 0x3003 = 0x1234#16 := by decide
theorem test_st_to_kbsr_plain : (after (start 0xFDFF 0x3000 [(0, 0x4000)] [] [some 0x41])).storeRead 0xFE00 =
    0x4000#16 := by decide
theorem test_sti : (after (start 0x3000 0xB201 [(1, 0x00AA)] [(0x3002, 0x4000)] [])).storeRead 0x4000 = 0x00AA#16 := by
  decide
theorem test_str_wraps : (after (start 0x3000 0x76E0 [(3, 0x0010)] [] [])).storeRead 0xFFF0 = 0x0010#16 := by decide

theorem test_getc : (after (start 0x3000 0xF020 [] [] [some 0x41])).reg 0 = 0x0041#16 ∧
    (after (start 0x3000 0xF020 [] [] [some 0x41])).cond = flagZero := by decide
theorem test_getc_waits : (after (after (start 0x3000 0xF020 [] [] []))).service = some .getc ∧
    (after (after (start 0x3000 0xF020 [] [] []))).pc = 0x3001#16 := by decide
theorem test_out : (after (start 0x3000 0xF021 [(0, 0x1248)] [] [])).output = [.byte 0x48#8] := by decide
theorem test_puts_wraps : (after (start 0x3000 0xF022 [(0, 0xFFFF)] [(0xFFFF, 0x0041), (0x0000, 0x0042)] [])).output =
    [.byte 0x41#8, .byte 0x42#8, .flush] := by decide
theorem test_puts_empty : (after (start 0x3000 0xF022 [(0, 0x4000)] [] [])).output = [.flush] := by decide
theorem test_in : (after (start 0x3000 0xF023 [] [] [none, some 0x79])).reg 0 = 0x0079#16 := by decide
theorem test_in_output : (after (start 0x3000 0xF023 [] [] [some 0x79])).output =
    Config.inPrompt.map OutEvent.byte ++ [.byte 0x79#8] := rfl
theorem test_putsp : (after (start 0x3000 0xF024 [(0, 0x4000)] [(0x4000, 0x4948), (0x4001, 0x0021)] [])).output =
    [.byte 0x48#8, .byte 0x49#8, .byte 0x21#8, .flush] := by decide
theorem test_putsp_zero_low_byte : (after (start 0x3000 0xF024 [(0, 0x4000)] [(0x4000, 0x4100)] [])).output =
    [.byte 0x00#8, .byte 0x41#8, .flush] := by decide
theorem test_halt : (after (start 0x3000 0xFF25 [] [] [])).engine = .halted ∧
    (after (start 0x3000 0xFF25 [] [] [])).pc = 0x3001#16 := by decide

theorem test_undefined_vector : status (after (start 0x3000 0xF01F [] [] [])) = ⟨3, some ⟨3, 0x3000, 0xF01F⟩⟩ ∧
    (after (start 0x3000 0xF01F [] [] [])).pc = 0x3001#16 := by decide
theorem test_rti : status (after (start 0x3000 0x8000 [(0, 5)] [] [])) = ⟨3, some ⟨1, 0x3000, 0x8000⟩⟩ ∧
    (after (start 0x3000 0x8000 [(0, 5)] [] [])).reg 0 = 5#16 := by decide
theorem test_reserved : status (after (start 0x3000 0xDEAD [] [] [])) = ⟨3, some ⟨2, 0x3000, 0xDEAD⟩⟩ := by decide
theorem test_fetch_at_kbsr_key : status (after (start 0xFE00 0x1234 [] [] [some 0x41])) =
    ⟨3, some ⟨1, 0xFE00, 0x8000⟩⟩ := by decide
theorem test_fetch_at_kbsr_no_key : (after (start 0xFE00 0x1234 [] [] [none])).pc = 0xFE01#16 ∧
    (after (start 0xFE00 0x1234 [] [] [none])).engine = .running := by decide

/-- A machine with other parameters polls at its own cells (R63): LD from KBSR at 0x4000, KBDR at 0x4001. -/
theorem test_kbsr_parameter :
    let s := { start 0x3FF0 0x200F [] [] [some 0x41] with params := ⟨0x4000, 0x4001, 0xC000, 0x1111, flagPositive⟩ }
    (after s).reg 0 = 0xC000#16 ∧ (after s).storeRead 0x4001 = 0x0041#16 ∧ (hostReset s).reg 5 = 0x1111#16 := by decide

/-! ## The host (section 2.7 of the vectors) -/

theorem test_preload_basic :
    (preload [0x30, 0x00, 0x12, 0x34, 0xAB, 0xCD] State.reset).2.mem = [(0x3000, 0x1234#16), (0x3001, 0xABCD#16)] := by
  decide
theorem test_preload_stops_at_top :
    (preload [0xFF, 0xFF, 0x00, 0x01, 0x00, 0x02] State.reset).2.mem = [(0xFFFF, 0x0001#16)] := by decide
theorem test_preload_too_short : (preload [0x40] State.reset).1 = .failure := by decide
theorem test_flushed_bytes : flushedBytes [.byte 0x48, .flush, .byte 0x21] = [0x48#8] := by decide

/-! ## Witnesses: each statement's hypotheses are met together -/

theorem witness_DecodeOfEncodeIsTheInstruction : Instr.wellFormed (.trapUndefined 0#4 0x26#8) = true := by decide

theorem witness_IgnoredBitsDoNotChangeTheInstruction :
    0x1419#16 &&& namedBits (decode 0x1401#16) = 0x1401#16 &&& namedBits (decode 0x1401#16) := by decide

theorem witness_StepRunsTheDecodedInstruction :
    let s := start 0x3000 0x1401 [] [] []
    AtInstruction s ∧ s.pc ≠ s.params.kbsrAddr ∧ s.storeRead s.pc = 0x1401#16 := by decide

theorem witness_PlacedWordRunsNext : ParamsOk State.reset.params ∧ 0xFFFF < 2 ^ 16 := by decide

theorem witness_Inv_running : Inv (start 0x3000 0x1401 [(0, 3)] [(0x4000, 7)] [some 0x41]) := by decide

theorem witness_Inv_faulted : Inv (after (start 0x3000 0xF026 [] [] [])) := by decide

theorem witness_EveryStepKeepsTheInvariant :
    ∃ t, Inv (start 0x3000 0xDEAD [] [] []) ∧ step (start 0x3000 0xDEAD [] [] []) = .next t :=
  ⟨_, by decide, rfl⟩

theorem witness_SignExtensionIsAsDefined :
    (0 < 1 ∧ 1 ≤ 16) ∧ (0 < 16 ∧ 16 ≤ 16) ∧ (4 < 5) ∧ (5 ≤ 15 ∧ 15 < 16) := by decide

theorem witness_SetccSetsTheOneFlagOfTheValue :
    (0x8000#16 ≠ 0x0000#16 ∧ (0x8000#16).getLsbD 15 = true) ∧ (0x7FFF#16 ≠ 0x0000#16 ∧ (0x7FFF#16).getLsbD 15 = false)
      := by decide

theorem witness_FlagsAreWrittenAndReadOnlyAsListed :
    (∃ t, exec (.lea 0#3 0#9) State.reset = .next t) ∧ (∃ t, exec .trapGetc State.reset = .next t) ∧
      isBr (.lea 0#3 0#9) = false := ⟨⟨_, rfl⟩, ⟨_, rfl⟩, rfl⟩

theorem witness_OnlyTheListedRegistersChange :
    (∃ t, exec (.jsr 0#11) State.reset = .next t) ∧ 0#3 ∉ writesRegs (.jsr 0#11) := ⟨⟨_, rfl⟩, by decide⟩

theorem witness_PcAfterEveryInstruction :
    Instr.wellFormed (.jsrr 7#3) = true ∧ Instr.wellFormed (.rti 0#12) = true ∧ isFaulting (.rti 0#12) = true := by
  decide

theorem witness_NotAddAddSubtracts : (0#3 : Reg) ≠ 1#3 := by decide

theorem witness_BranchMovesOnlyPc : CondOneHot State.reset := by decide

theorem witness_ControlTransferHasNoDelaySlot :
    isControl (.jsrr 7#3) = true ∧ AtInstruction (start 0x3000 0 [] [] []) ∧ writesRegs (.jsrr 7#3) = [7#3] := by decide

theorem witness_LoadsAwayFromKbsrChangeNoCell :
    let s := start 0x3000 0 [(3, 0x4000)] [(0x3001, 0x4000)] []
    s.pc + (1#9).signExtend 16 ≠ s.params.kbsrAddr ∧ s.reg 3#3 + (1#6).signExtend 16 ≠ s.params.kbsrAddr ∧
      s.storeRead (s.pc + (1#9).signExtend 16) ≠ s.params.kbsrAddr := by decide

theorem witness_LdiThroughKbsrPollsTheKeyboard :
    let s := start 0x3001 0xA201 [] [(0x3002, 0xFE00)] [some 0x41]
    s.pc + (1#9).signExtend 16 ≠ s.params.kbsrAddr ∧ s.storeRead (s.pc + (1#9).signExtend 16) = s.params.kbsrAddr ∧
      s.keys = some 0x41#8 :: [] ∧ ParamsOk s.params := by decide

theorem witness_LdiThroughKbsrPollsTheKeyboard_no_key :
    let s := start 0x3001 0xA201 [] [(0x3002, 0xFE00)] [none]
    s.pc + (1#9).signExtend 16 ≠ s.params.kbsrAddr ∧ s.storeRead (s.pc + (1#9).signExtend 16) = s.params.kbsrAddr ∧
      s.keys = none :: [] ∧ ParamsOk s.params := by decide

theorem witness_StoresWriteExactlyOneCell :
    let s := start 0x3001 0 [] [] []
    ∃ t, exec (.st 0#3 2#9) s = .next t ∧ isStore (.st 0#3 2#9) = true ∧
      Stored (s.pc + (2#9).signExtend 16) (s.reg 0#3) s s t ∧ s.pc + (2#9).signExtend 16 ≠ s.params.kbsrAddr := by
  refine ⟨_, rfl, rfl, ⟨?_, fun a h => ?_, rfl, fun _ => rfl, rfl, rfl, rfl, rfl, rfl, rfl, rfl, rfl, rfl⟩, by decide⟩
  · decide
  · rw [storeRead_memWrite]
    exact if_neg h

theorem witness_StoredWordRunsAsTheNextInstruction :
    let s := start 0x3000 0x3200 [(1, 0xF025)] [] []
    AtInstruction s ∧ s.pc ≠ s.params.kbsrAddr ∧ s.pc + 1#16 ≠ s.params.kbsrAddr ∧ decode (s.storeRead s.pc) = .st 1#3 0#9 := by decide

theorem witness_KbsrReadPollsTheHost :
    (start 0x3000 0 [] [] [some 0xFF]).keys = some 0xFF#8 :: [] ∧ (start 0x3000 0 [] [] [none]).keys = none :: [] ∧
      State.reset.keys = [] ∧ ParamsOk State.reset.params ∧
      (0xFE01#16 ≠ State.reset.params.kbsrAddr ∧ 0xFE01#16 ≠ State.reset.params.kbdrAddr) := by decide

/-- Parameters other than the defaults that the spec allows too. -/
theorem witness_ParamsOk : ParamsOk ⟨0x0000#16, 0x3001#16, 0xFFFF#16, 0x1234#16, flagNegative⟩ := by decide

theorem witness_OtherReadsArePlain :
    0xFDFF#16 ≠ State.reset.params.kbsrAddr ∧ ParamsOk (start 0x3000 0 [] [] [some 0x41]).params ∧
      (start 0x3000 0 [] [] [some 0x41]).keys = some 0x41#8 :: [] := by decide

theorem witness_WritesHaveNoSpecialAddresses :
    ParamsOk State.reset.params ∧ ∀ c rest, State.reset.keys ≠ some c :: rest :=
  ⟨by decide, fun c rest h => by cases h⟩

theorem witness_MemoryChangesByStoresAndPollsOnly :
    (∃ t, exec .trapOut State.reset = .next t ∧ isDataAccess .trapOut = false) ∧
      (∃ t, exec (.ld 0#3 0#9) State.reset = .next t ∧ isStore (.ld 0#3 0#9) = false) := ⟨⟨_, rfl, rfl⟩, ⟨_, rfl, rfl⟩⟩

theorem witness_FetchAtKbsrPolls :
    let s := start 0xFE00 0 [] [] [some 0x41]
    let u := start 0xFE00 0 [] [] [none]
    AtInstruction s ∧ s.pc = s.params.kbsrAddr ∧ s.keys = some 0x41#8 :: [] ∧ AtInstruction u ∧ u.pc = u.params.kbsrAddr ∧
      u.keys = none :: [] ∧ ParamsOk s.params ∧ ParamsOk u.params ∧ s.params.kbsrReady = 0x8000#16 := by decide

theorem witness_ZeroMemoryRunsOnForever :
    let s := hostStart State.reset
    AtInstruction s ∧ (∀ a : Word, s.storeRead a = 0x0000#16) ∧ ∀ q ∈ s.keys, q = none :=
  ⟨by decide, fun _ => rfl, takeKey_eq_none.mp (by decide)⟩

theorem witness_PreloadedImageReadsBack :
    State.reset.engine = .ready ∧ (0xFFFF#16).toNat + [0x0001#16].length ≤ 65536 ∧ 0 < [0x0001#16].length := by decide

theorem witness_PreloadStopsAtTheBoundary :
    State.reset.engine = .ready ∧ imageWords [0xFF, 0xFF, 0x00, 0x01, 0x00, 0x02] = 0xFFFF#16 :: [0x0001, 0x0002] := by
  decide

theorem witness_ShortOddAndUntimelyPreloads :
    State.reset.engine = .ready ∧ [0x40#8].length < 2 ∧ ([] : List Byte).length < 2 ∧
      [0x40#8, 0x00#8].length % 2 = 0 ∧ (hostStart State.reset).engine ≠ .ready := by decide

theorem witness_BrokenPreloadStoresAPrefix :
    State.reset.engine = .ready ∧ imageWords [0xFF, 0xFE, 0x00, 0x01, 0x00, 0x02] = 0xFFFE#16 :: [0x0001, 0x0002] ∧
      imageWords [0x30] = [] := by decide

theorem witness_ServicesWriteOnlyR0 :
    isService .trapIn = true ∧ isService .trapHalt = true ∧ Instr.trapOut ≠ .trapGetc ∧ Instr.trapOut ≠ .trapIn := by
  decide

theorem witness_input_with_key :
    let s := start 0x3000 0xF020 [] [] [none, some 0x41]
    s.keys = List.replicate 1 none ++ some 0x41#8 :: [] ∧ s.service = none := by decide

theorem witness_input_without_key :
    let s := start 0x3000 0xF020 [] [] [none]
    AtInstruction s ∧ ∀ q ∈ s.keys, q = none := ⟨by decide, takeKey_eq_none.mp (by decide)⟩

theorem witness_string :
    let s := start 0x3000 0xF022 [(0, 0xFFFF)] [(0xFFFF, 0x4948)] []
    StringAt s (s.reg 0#3) [0x4948#16] ∧ s.service = none :=
  ⟨⟨by decide, by decide, show State.storeRead _ _ = _ by decide⟩, by decide⟩

/-- A memory with no zero cell. -/
def fullMemory : Memory := (List.range' 0 65536).map (fun k => (k, 0x0041#16))

theorem read_map_range (n lo a : Nat) (h1 : lo ≤ a) (h2 : a < lo + n) :
    Memory.read ((List.range' lo n).map (fun k => (k, 0x0041#16))) a = 0x0041#16 := by
  induction n generalizing lo with
  | zero => omega
  | succ n ih =>
    rw [List.range'_succ, List.map_cons, Memory.read]
    split
    · rfl
    · exact ih (lo + 1) (by omega) (by omega)

theorem witness_EndlessStringNeverEnds :
    let s := { start 0x3000 0xF022 [] [] [] with mem := fullMemory }
    AtInstruction s ∧ ∀ a : Word, s.storeRead a ≠ 0x0000#16 := by
  refine ⟨⟨by decide, by decide⟩, fun a => ?_⟩
  have h : fullMemory.read a.toNat = 0x0041#16 := read_map_range 65536 0 a.toNat (by omega) (by have := a.isLt; omega)
  show fullMemory.read a.toNat ≠ 0x0000#16
  rw [h]
  decide

theorem witness_FaultsAreTakenAsDescribed :
    isServiceVector 0x1F#8 = false ∧ isServiceVector 0x26#8 = false ∧ isServiceVector 0x20#8 = true ∧
      isServiceVector 0x25#8 = true := by decide

theorem witness_FaultRecordsTheFetchedWord :
    let s := start 0x3000 0xF026 [] [] []
    AtInstruction s ∧ s.pc ≠ s.params.kbsrAddr ∧ s.storeRead s.pc = 0xF026#16 ∧
      ((0xF026#16).toNat / 4096 = 15 ∧ 0x25 < (0xF026#16).toNat % 256) ∧ (0xF01F#16).toNat % 256 < 0x20 ∧
      (0x8FFF#16).toNat / 4096 = 8 ∧ (0xD000#16).toNat / 4096 = 13 := by decide

theorem witness_OnlyHaltAndFaultsStopTheEngine :
    (∃ t, AtInstruction (start 0x3000 0xF025 [] [] []) ∧ step (start 0x3000 0xF025 [] [] []) = .next t) ∧
      ∃ s t : State, s.engine = .running ∧ s.service ≠ none ∧ step s = .next t :=
  ⟨⟨_, by decide, rfl⟩, after (start 0x3000 0xF020 [] [] []), _, by decide, by decide, rfl⟩

theorem witness_TerminalStatesAreLeftByResetOnly :
    (after (start 0x3000 0xF025 [] [] [])).engine = .halted ∧ (after (start 0x3000 0x8000 [] [] [])).engine = .faulted ∧
      HostOp.start ≠ .reset ∧ ∀ c, HostOp.key none ≠ .key (some c) :=
  ⟨by decide, by decide, by decide, fun c h => by simp at h⟩

theorem witness_input_wait :
    let t := after (start 0x3000 0xF020 [] [] [none])
    let u := hostKey (some 0x41#8) (after (start 0x3000 0xF023 [] [] []))
    t.engine = .running ∧ t.service = some .getc ∧ (∀ q ∈ t.keys, q = none) ∧
      u.engine = .running ∧ u.service = some .input ∧ some 0x41#8 ∈ u.keys :=
  ⟨by decide, by decide, takeKey_eq_none.mp (by decide), by decide, by decide, by decide⟩

theorem witness_NothingExecutesOutsideRunning : State.reset.engine ≠ .running ∧ State.reset.engine = .ready := by decide

theorem witness_StatusTellsFaultFromHalt :
    State.reset.engine = .ready ∧ (hostStart State.reset).engine = .running ∧
      (after (start 0x3000 0xF025 [] [] [])).engine = .halted ∧ (after (start 0x3000 0x8000 [] [] [])).engine = .faulted := by
  decide

theorem witness_OutputGrowsAndKeysAreTakenInOrder : ∃ t, step (start 0x3000 0xF021 [] [] []) = .next t := ⟨_, rfl⟩

theorem witness_HostKeysReachOnlyReadersOfThem :
    mayReadHost .trapPuts = false ∧ ∃ t, exec .trapPuts State.reset = .next t := ⟨rfl, _, rfl⟩

theorem witness_FlushMakesAllBytesVisible :
    (∃ t, exec .trapHalt State.reset = .next t) ∧ (∃ t, exec .trapPuts State.reset = .next t ∧ t.service = none) ∧
      (∃ t, exec .trapPutsp State.reset = .next t ∧ t.service = none) ∧ ∃ t, exec .trapOut State.reset = .next t :=
  ⟨⟨_, rfl⟩, ⟨_, rfl, by decide⟩, ⟨_, rfl, by decide⟩, _, rfl⟩

end Sys2Proof.Tests
end

section
/-! PROOFS. Sign and zero extension of a field, bit by bit (spec/00_scope.md R9). -/

namespace Sys2Proof.Machine

variable {n : Nat} (f : BitVec n)

/-- Below the field's width a sign extension has the field's bits, above it copies of the field's sign bit. -/
theorem getLsbD_sext {k : Nat} (hk : k < 16) :
    (sext f).getLsbD k = if k < n then f.getLsbD k else f.getLsbD (n - 1) := by
  rw [sext, BitVec.getLsbD_signExtend, BitVec.msb_eq_getLsbD_last, decide_eq_true hk, Bool.true_and]

theorem sext_of_sign_clear (h : f.getLsbD (n - 1) = false) : sext f = f.setWidth 16 :=
  BitVec.signExtend_eq_setWidth_of_msb_false (by rwa [BitVec.msb_eq_getLsbD_last])

/-- A set sign bit fills the bits from `n` on with ones, which is or-ing the mask `0xFFFF << n`. -/
theorem sext_of_sign_set (h : f.getLsbD (n - 1) = true) : sext f = f.setWidth 16 ||| (0xFFFF#16 <<< n) := by
  have hones : ∀ i < 16, (0xFFFF#16).getLsbD i = true := by decide
  apply BitVec.eq_of_getLsbD_eq
  intro k hk
  rw [getLsbD_sext f hk, BitVec.getLsbD_or, BitVec.getLsbD_setWidth, BitVec.getLsbD_shiftLeft]
  by_cases hkn : k < n
  · simp [hkn, hk]
  · rw [hones (k - n) (by omega)]
    simp [hkn, hk, h]

theorem toInt_sext (hn : n ≤ 16) : (sext f).toInt = f.toInt := BitVec.toInt_signExtend_of_le hn

/-- A zero extension to 16 bits has the field's bits and zeros above them. -/
theorem getLsbD_zext (hn : n ≤ 16) (k : Nat) : (zext f).getLsbD k = if k < n then f.getLsbD k else false := by
  rw [zext, BitVec.getLsbD_setWidth]
  split
  · next h => simp [show k < 16 by omega]
  · next h => simp [BitVec.getLsbD_of_ge f k (by omega)]

/-- Settles O14: each clause is the bit-by-bit law of `sext` or `zext`. -/
theorem signExtensionIsAsDefined : Obligations.SignExtensionIsAsDefined := by
  intro n f _ hn
  refine ⟨fun k hk => ?_, fun k hnk hk => ?_, ?_, toInt_sext f hn, getLsbD_zext f hn, fun _ => rfl⟩
  · rw [getLsbD_sext f (by omega), if_pos hk]
  · rw [getLsbD_sext f hk, if_neg (by omega)]
  · split
    · next h => exact sext_of_sign_clear f h
    · next h => exact sext_of_sign_set f (by simpa using h)

end Sys2Proof.Machine
end

section
/-! PROOFS. What a host interaction can do, and that each keeps the invariant (spec/20_memory.md R79 to R83,
spec/70_reset_and_hazards.md R340, R341). -/

namespace Sys2Proof.Machine

variable {s : State}

/-! ## Each host interaction by cases -/

/-- A `preload` turns the stream away and changes nothing, or, in Ready, stores the image's words from its origin on. -/
theorem preload_cases (bytes : List Byte) (s : State) :
    (s.engine ≠ .ready ∧ preload bytes s = (.ignored, s)) ∨
    (s.engine = .ready ∧ imageWords bytes = [] ∧ preload bytes s = (.failure, s)) ∨
    (∃ origin ws, s.engine = .ready ∧ imageWords bytes = origin :: ws ∧
      preload bytes s = (.success, { s with mem := loadWords s.mem origin.toNat ws })) := by
  unfold preload
  by_cases he : s.engine = .ready
  · cases hw : imageWords bytes <;> simp [he]
  · simp [he]

/-- A `preload` that fails partway stores the first `stored` of the image's words, where it stores any. -/
theorem preloadBroken_cases (bytes : List Byte) (stored : Nat) (s : State) :
    (s.engine ≠ .ready ∧ preloadBroken bytes stored s = (.ignored, s)) ∨
    (s.engine = .ready ∧ imageWords bytes = [] ∧ preloadBroken bytes stored s = (.failure, s)) ∨
    (∃ origin ws, s.engine = .ready ∧ imageWords bytes = origin :: ws ∧
      preloadBroken bytes stored s =
        (.failure, { s with mem := loadWords s.mem origin.toNat (ws.take stored) })) := by
  unfold preloadBroken
  by_cases he : s.engine = .ready
  · cases hw : imageWords bytes <;> simp [he]
  · simp [he]

theorem hostStart_of_ready (h : s.engine = .ready) : hostStart s = { s with engine := .running } := if_pos h

theorem hostStart_of_ne_ready (h : s.engine ≠ .ready) : hostStart s = s := if_neg h

/-! ## The parameters -/

@[simp] theorem preload_params (bytes : List Byte) (s : State) : (preload bytes s).2.params = s.params := by
  obtain ⟨-, h⟩ | ⟨-, -, h⟩ | ⟨origin, ws, -, -, h⟩ := preload_cases bytes s <;> rw [h]

@[simp] theorem preloadBroken_params (bytes : List Byte) (stored : Nat) (s : State) :
    (preloadBroken bytes stored s).2.params = s.params := by
  obtain ⟨-, h⟩ | ⟨-, -, h⟩ | ⟨origin, ws, -, -, h⟩ := preloadBroken_cases bytes stored s <;> rw [h]

@[simp] theorem hostStart_params (s : State) : (hostStart s).params = s.params := by
  unfold hostStart
  split <;> rfl

/-- No host interaction changes a parameter (log entry 27). -/
@[simp] theorem hostApply_params (op : HostOp) (s : State) : (hostApply op s).params = s.params := by
  cases op with
  | reset => exact hostReset_params s
  | start => exact hostStart_params s
  | preload bytes => exact preload_params bytes s
  | preloadBroken bytes stored => exact preloadBroken_params bytes stored s
  | key k => exact hostKey_params s k

/-! ## The invariant -/

/-- Loading stops at the boundary, so every write is inside the address space and the memory stays canonical (R82). -/
theorem wf_loadWords {m : Memory} (a : Nat) (ws : List Word) (h : m.wf = true) : (loadWords m a ws).wf = true := by
  induction ws generalizing m a with
  | nil => exact h
  | cons w ws ih =>
    unfold loadWords
    split
    · exact h
    · next ha => exact ih (a + 1) (wf_write w (by omega) h)

/-- Outside Faulted a fitting fault record is a clear one. -/
theorem faultRecordOk_of_ne_faulted (h : s.engine ≠ .faulted) :
    FaultRecordOk s ↔ s.faultCause = 0#8 ∧ s.faultPc = 0x0000#16 ∧ s.faultIr = 0x0000#16 := by
  simp [FaultRecordOk, h]

/-- The state after reset meets the invariant with any parameters that the spec allows. -/
theorem inv_resetWith {p : Config.Params} (h : ParamsOk p) : Inv (State.resetWith p) := by
  have ⟨_, _, _, _, hcond⟩ := h
  have hfault : FaultRecordOk (State.resetWith p) := ⟨rfl, rfl, rfl⟩
  exact ⟨wf_resetWith p, hcond, hfault, .inl rfl, h⟩

/-- The invariant says of memory only that it is canonical. -/
theorem inv_of_mem_wf {m : Memory} (hm : m.wf = true) (h : Inv s) : Inv { s with mem := m } := by
  obtain ⟨-, hcond, hfault, hservice, hparams⟩ := h
  exact ⟨hm, hcond, hfault, hservice, hparams⟩

/-- The invariant says nothing of the host's queue and of the output log. -/
theorem inv_of_host (ks : List (Option Byte)) (out : List OutEvent) (h : Inv s) :
    Inv { s with keys := ks, output := out } := h

theorem inv_loadWords (a : Nat) (ws : List Word) (h : Inv s) : Inv { s with mem := loadWords s.mem a ws } :=
  inv_of_mem_wf (wf_loadWords a ws h.1) h

theorem inv_hostReset (h : Inv s) : Inv (hostReset s) := by
  obtain ⟨-, -, -, -, hparams⟩ := h
  exact inv_of_host s.keys s.output (inv_resetWith hparams)

/-- `start` leaves Ready, where the fault record is clear, for Running, where it must be clear. -/
theorem inv_hostStart (h : Inv s) : Inv (hostStart s) := by
  by_cases he : s.engine = .ready
  · obtain ⟨hmem, hcond, hfault, -, hparams⟩ := h
    have hclear := (faultRecordOk_of_ne_faulted (by simp [he])).mp hfault
    rw [hostStart_of_ready he]
    exact ⟨hmem, hcond, (faultRecordOk_of_ne_faulted (by simp)).mpr hclear, .inr rfl, hparams⟩
  · rwa [hostStart_of_ne_ready he]

theorem inv_preload (bytes : List Byte) (h : Inv s) : Inv (preload bytes s).2 := by
  obtain ⟨-, hp⟩ | ⟨-, -, hp⟩ | ⟨origin, ws, -, -, hp⟩ := preload_cases bytes s <;> rw [hp]
  · exact h
  · exact h
  · exact inv_loadWords _ _ h

theorem inv_preloadBroken (bytes : List Byte) (stored : Nat) (h : Inv s) : Inv (preloadBroken bytes stored s).2 := by
  obtain ⟨-, hp⟩ | ⟨-, -, hp⟩ | ⟨origin, ws, -, -, hp⟩ := preloadBroken_cases bytes stored s <;> rw [hp]
  · exact h
  · exact h
  · exact inv_loadWords _ _ h

theorem inv_hostKey (k : Option Byte) (h : Inv s) : Inv (hostKey k s) := inv_of_host (s.keys ++ [k]) s.output h

/-- Every host interaction keeps the invariant. -/
theorem inv_hostApply (op : HostOp) (h : Inv s) : Inv (hostApply op s) := by
  cases op with
  | reset => exact inv_hostReset h
  | start => exact inv_hostStart h
  | preload bytes => exact inv_preload bytes h
  | preloadBroken bytes stored => exact inv_preloadBroken bytes stored h
  | key k => exact inv_hostKey k h

/-- Settles O11, one host interaction at a time. -/
theorem everyHostActKeepsTheInvariant : Obligations.EveryHostActKeepsTheInvariant :=
  ⟨fun op _ h => inv_hostApply op h, hostApply_params⟩

end Sys2Proof.Machine
end

section
/-! PROOFS. The decoder on the words a fault records, and the instructions that words stand for (spec/30_encoding.md
R107, R109, spec/60_exceptions.md R302). -/

namespace Sys2Proof

/-- The six vectors from 0x20 to 0x25, one by one (R230). -/
theorem isServiceVector_eq_false {v : Byte} (h0 : v ≠ 0x20#8) (h1 : v ≠ 0x21#8) (h2 : v ≠ 0x22#8) (h3 : v ≠ 0x23#8)
    (h4 : v ≠ 0x24#8) (h5 : v ≠ 0x25#8) : isServiceVector v = false := by
  simp only [isServiceVector, Bool.and_eq_false_iff, decide_eq_false_iff_not]
  bv_omega

/-- A TRAP word decodes to a service's row exactly for the six vectors, so the last row never holds one of them. -/
theorem wellFormed_decodeTrap (high : BitVec 4) (v : Byte) : (decodeTrap high v).wellFormed = true := by
  unfold decodeTrap
  split_ifs with h0 h1 h2 h3 h4 h5
  case neg => simp [Instr.wellFormed, isServiceVector_eq_false h0 h1 h2 h3 h4 h5]
  all_goals rfl

/-- Every word decodes to a well-formed instruction. -/
theorem wellFormed_decode (w : Word) : (decode w).wellFormed = true := by
  unfold decode
  cases Opcode.ofCode (opcodeField w) with
  | trap => exact wellFormed_decodeTrap _ _
  | add | jsr | and => dsimp only; split <;> rfl
  | _ => rfl

/-- A vector that names no service selects the last TRAP row, with the word's high bits and vector. -/
theorem decodeTrap_of_not_service (high : BitVec 4) {v : Byte} (h : isServiceVector v = false) :
    decodeTrap high v = .trapUndefined high v := by
  have hne : ∀ u : Byte, isServiceVector u = true → v ≠ u := by
    rintro u hu rfl
    simp [h] at hu
  simp [decodeTrap, hne 0x20#8 rfl, hne 0x21#8 rfl, hne 0x22#8 rfl, hne 0x23#8 rfl,
    hne 0x24#8 rfl, hne 0x25#8 rfl]

theorem decode_encode_rti (rest : BitVec 12) : decode (encode (.rti rest)) = .rti rest := by
  have hop : Opcode.ofCode (opcodeField (encode (.rti rest))) = .rti := Laws.OpcodeField.rti rest
  have hrest : restField (encode (.rti rest)) = rest := by
    simp [restField, encode, extract_or, extract_place_self, extract_place_below]
  simp [decode, hop, hrest]

theorem decode_encode_reserved (rest : BitVec 12) : decode (encode (.reserved rest)) = .reserved rest := by
  have hop : Opcode.ofCode (opcodeField (encode (.reserved rest))) = .reserved := Laws.OpcodeField.reserved rest
  have hrest : restField (encode (.reserved rest)) = rest := by
    simp [restField, encode, extract_or, extract_place_self, extract_place_below]
  simp [decode, hop, hrest]

theorem decode_encode_trapUndefined (high : BitVec 4) {v : Byte} (h : isServiceVector v = false) :
    decode (encode (.trapUndefined high v)) = .trapUndefined high v := by
  have hop : Opcode.ofCode (opcodeField (encode (.trapUndefined high v))) = .trap :=
    Laws.OpcodeField.trapUndefined high v
  have hhigh : trapHighField (encode (.trapUndefined high v)) = high := by
    simp [trapHighField, encode, extract_or, extract_place_self, extract_place_below, extract_place_above]
  have hvector : vectorField (encode (.trapUndefined high v)) = v := by
    simp [vectorField, encode, extract_or, extract_place_self, extract_place_below]
  simp [decode, hop, hhigh, hvector, decodeTrap_of_not_service high h]

end Sys2Proof
end

section
/-! PROOFS. What an instruction leaves, field by field (spec/10_state.md R31, R34, R38, R40, R41): the frames of the
shared operations first, then one lemma per field over all instructions. -/

namespace Sys2Proof.Machine

variable {i : Instr} {s t : State}

/-! ## The frames of the shared operations -/

/-- A load leaves everything but DR, the flags and what its read polls. -/
@[simp] theorem loadInto_frame (d : Reg) (a : Word) (s : State) :
    (loadInto d a s).pc = s.pc ∧ (loadInto d a s).engine = s.engine ∧ (loadInto d a s).faultCause = s.faultCause ∧
      (loadInto d a s).faultPc = s.faultPc ∧ (loadInto d a s).faultIr = s.faultIr := by
  simp [loadInto]

/-- A load sets the flags from the value it leaves in DR (R190). -/
theorem loadInto_cond (d : Reg) (a : Word) (s : State) : (loadInto d a s).cond = flagOf ((loadInto d a s).reg d) := by
  simp [loadInto]

theorem reg_loadInto_of_ne {d r : Reg} (a : Word) (s : State) (h : r ≠ d) : (loadInto d a s).reg r = s.reg r := by
  simp [loadInto, h]

theorem wf_loadInto (d : Reg) (a : Word) (h : s.mem.wf = true) : (loadInto d a s).mem.wf = true :=
  wf_readEffect s a h

/-- GETC leaves everything but R0, the queue and the service in progress (R231, R232). -/
@[simp] theorem runGetc_frame (s : State) :
    (runGetc s).pc = s.pc ∧ (runGetc s).cond = s.cond ∧ (runGetc s).mem = s.mem ∧
      (runGetc s).faultCause = s.faultCause ∧ (runGetc s).faultPc = s.faultPc ∧ (runGetc s).faultIr = s.faultIr := by
  obtain ⟨c, rest, -, h⟩ | ⟨-, h⟩ := runGetc_cases s <;> simp [h]

theorem reg_runGetc_of_ne (s : State) {r : Reg} (hr : r ≠ charReg) : (runGetc s).reg r = s.reg r := by
  obtain ⟨c, rest, -, h⟩ | ⟨-, h⟩ := runGetc_cases s
  · rw [h, reg_setService, reg_setReg_of_ne _ _ hr]
    rfl
  · rw [h, reg_setService]

/-- IN leaves everything but R0, the queue, the output and the service in progress (R231, R235). -/
@[simp] theorem runIn_frame (s : State) :
    (runIn s).pc = s.pc ∧ (runIn s).cond = s.cond ∧ (runIn s).mem = s.mem ∧
      (runIn s).faultCause = s.faultCause ∧ (runIn s).faultPc = s.faultPc ∧ (runIn s).faultIr = s.faultIr := by
  obtain ⟨c, rest, -, h⟩ | ⟨-, h⟩ := runIn_cases s <;> simp [h]

theorem reg_runIn_of_ne (s : State) {r : Reg} (hr : r ≠ charReg) : (runIn s).reg r = s.reg r := by
  obtain ⟨c, rest, -, h⟩ | ⟨-, h⟩ := runIn_cases s
  · rw [h, reg_setService, reg_setReg_of_ne _ _ hr]
    rfl
  · rw [h, reg_setService]

/-- PUTS and PUTSP leave everything but the output and the service in progress (R231, R234, R236). -/
@[simp] theorem runString_frame (k : Service) (bytesOf : Word → List Byte) (s : State) :
    (runString k bytesOf s).regs = s.regs ∧ (runString k bytesOf s).pc = s.pc ∧ (runString k bytesOf s).cond = s.cond ∧
      (runString k bytesOf s).mem = s.mem ∧ (runString k bytesOf s).faultCause = s.faultCause ∧
      (runString k bytesOf s).faultPc = s.faultPc ∧ (runString k bytesOf s).faultIr = s.faultIr := by
  obtain ⟨bs, h⟩ | ⟨bs, h⟩ := runString_cases s k bytesOf <;> simp [h]

/-- A service that goes on leaves pc, flags, memory and fault record. -/
@[simp] theorem resumeService_frame (k : Service) (s : State) :
    (resumeService k s).pc = s.pc ∧ (resumeService k s).cond = s.cond ∧ (resumeService k s).mem = s.mem ∧
      (resumeService k s).faultCause = s.faultCause ∧ (resumeService k s).faultPc = s.faultPc ∧
      (resumeService k s).faultIr = s.faultIr := by
  cases k <;> simp [resumeService]

/-- BR always answers with a new pc; where it is not taken that is the old one (R170). -/
theorem exec_br_setPc (n z p : BitVec 1) (off : BitVec 9) (s : State) :
    exec (.br n z p off) s = .next (s.setPc (if branchTaken n z p s then addrPc9 off s else s.pc)) := by
  rw [exec_br]
  split <;> rfl

/-- LDI and STI read their pointer through MemRead (R194). -/
@[simp] theorem addrIndirect9_snd (off : BitVec 9) (s : State) :
    (addrIndirect9 off s).2 = readEffect (addrPc9 off s) s := rfl

/-! ## The rows that fault -/

/-- An instruction that faults answers only where its term stands for a word, and then it has raised the fault of its
own cause with its own word, which decodes to it (R301, R302). -/
theorem exec_of_isFaulting (hi : isFaulting i = true) (h : exec i s = .next t) :
    ∃ c : FaultCause, c.code = faultCauseOf i ∧ decode (encode i) = i ∧ t = raiseFault c (encode i) s := by
  cases i with
  | rti rest => cases h; exact ⟨.rti, rfl, decode_encode_rti rest, rfl⟩
  | reserved rest => cases h; exact ⟨.reserved, rfl, decode_encode_reserved rest, rfl⟩
  | trapUndefined high v =>
    rw [exec_trapUndefined] at h
    split at h
    · cases h
    · next hv => cases h; exact ⟨.badTrap, rfl, decode_encode_trapUndefined high (by simpa using hv), rfl⟩
  | _ => cases hi

/-- The cause of a faulting instruction is one of the three codes, not the code of "no fault" (R41, R301). -/
theorem FaultCause.code_ne_zero (c : FaultCause) : c.code ≠ 0#8 := by cases c <;> decide

/-! ## One lemma per field -/

/-- Every instruction that stands for a word answers a next state. -/
theorem exec_next_of_wellFormed (hi : i.wellFormed = true) (s : State) : ∃ t, exec i s = .next t := by
  cases i with
  | trapUndefined high v =>
    exact ⟨_, exec_trapUndefined_of_wellFormed s (by simpa [Instr.wellFormed] using hi)⟩
  | _ => exact ⟨_, rfl⟩

/-- An instruction that takes no fault leaves the fault record, and the engine state too unless it is HALT (R40,
R41). -/
theorem exec_engine_of_not_faulting (hi : isFaulting i = false) (h : exec i s = .next t) :
    t.engine = (if i = .trapHalt then .halted else s.engine) ∧
      t.faultCause = s.faultCause ∧ t.faultPc = s.faultPc ∧ t.faultIr = s.faultIr := by
  cases i with
  | rti | reserved | trapUndefined => cases hi
  | br n z p off => rw [exec_br_setPc] at h; cases h; simp
  | _ => cases h; simp

/-- The engine state after an instruction: Faulted, Halted or what it was (R40, R301). -/
theorem exec_engine (h : exec i s = .next t) :
    t.engine = if isFaulting i then .faulted else if i = .trapHalt then .halted else s.engine := by
  cases hi : isFaulting i with
  | true =>
    obtain ⟨c, -, -, rfl⟩ := exec_of_isFaulting hi h
    rfl
  | false => exact (exec_engine_of_not_faulting hi h).1

/-- How every instruction leaves pc (R34). -/
theorem exec_pc (h : exec i s = .next t) : t.pc = pcAfter i s := by
  cases i with
  | rti | reserved | trapUndefined => obtain ⟨c, -, -, rfl⟩ := exec_of_isFaulting rfl h; rfl
  | br n z p off => rw [exec_br_setPc] at h; cases h; simp [pcAfter, branchTaken, addrPc9, sext]
  | jmp | jsr => cases h; rfl
  | jsrr base => cases h; exact reg_saveLink s base
  | _ => cases h; simp [pcAfter]

/-- A register outside the writer table's row for the instruction keeps its value (R31). -/
theorem exec_reg_of_notMem {r : Reg} (h : exec i s = .next t) (hr : r ∉ writesRegs i) : t.reg r = s.reg r := by
  cases i with
  | rti | reserved | trapUndefined => obtain ⟨c, -, -, rfl⟩ := exec_of_isFaulting rfl h; rfl
  | br n z p off => rw [exec_br_setPc] at h; cases h; rfl
  | ld | ldr => cases h; exact reg_loadInto_of_ne _ s (List.ne_of_not_mem_cons hr)
  | ldi =>
    cases h
    rw [reg_loadInto_of_ne _ _ (List.ne_of_not_mem_cons hr)]
    exact readEffect_reg s _ r
  | trapGetc => cases h; exact reg_runGetc_of_ne s (List.ne_of_not_mem_cons hr)
  | trapIn => cases h; exact reg_runIn_of_ne _ (List.ne_of_not_mem_cons hr)
  | trapPuts | trapPutsp => cases h; exact reg_congr (by simp) r
  | addReg | addImm | andReg | andImm | not | lea | jsr | jsrr =>
    cases h; exact reg_setReg_of_ne s _ (List.ne_of_not_mem_cons hr)
  | _ => cases h; simp

/-- An instruction that sets the flags sets them from the value it leaves in DR; every other leaves them (R38). -/
theorem exec_cond (h : exec i s = .next t) :
    match flagReg i with
    | some d => t.cond = flagOf (t.reg d)
    | none => t.cond = s.cond := by
  cases i with
  | rti | reserved | trapUndefined => obtain ⟨c, -, -, rfl⟩ := exec_of_isFaulting rfl h; rfl
  | br n z p off => rw [exec_br_setPc] at h; cases h; rfl
  | ld | ldi | ldr => cases h; exact loadInto_cond _ _ _
  | _ => cases h; simp [flagReg]

/-- Every instruction keeps memory canonical. -/
theorem exec_wf (h : exec i s = .next t) (hs : s.mem.wf = true) : t.mem.wf = true := by
  cases i with
  | rti | reserved | trapUndefined => obtain ⟨c, -, -, rfl⟩ := exec_of_isFaulting rfl h; exact hs
  | br n z p off => rw [exec_br_setPc] at h; cases h; exact hs
  | ld | ldr => cases h; exact wf_loadInto _ _ hs
  | ldi => cases h; exact wf_loadInto _ _ (wf_readEffect s _ hs)
  | st | str => cases h; exact wf_memWrite _ _ hs
  | sti => cases h; exact wf_memWrite _ _ (wf_readEffect s _ hs)
  | _ => cases h; simpa using hs

/-- Settles O17: the register lemma over all instructions. -/
theorem onlyTheListedRegistersChange : Obligations.OnlyTheListedRegistersChange :=
  fun _ _ _ h _ hr => exec_reg_of_notMem h hr

/-- Settles O18: an answer exists, its pc is the table's, and a faulting row raises its fault. -/
theorem pcAfterEveryInstruction : Obligations.PcAfterEveryInstruction := by
  intro i s hwf
  obtain ⟨t, h⟩ := exec_next_of_wellFormed hwf s
  exact ⟨t, h, exec_pc h, fun hi => by simp [exec_engine h, hi]⟩

end Sys2Proof.Machine
end

section
/-! PROOFS. The flags: the one that a value sets, and that no instruction but BR reads them (spec/10_state.md R36 to
R38). -/

namespace Sys2Proof.Machine

variable {s : State}

/-! ## The flag of a value -/

theorem flagOf_zero : flagOf 0x0000#16 = flagZero := rfl

theorem flagOf_of_msb {v : Word} (h : v ≠ 0x0000#16) : flagOf v = if v.msb then flagNegative else flagPositive :=
  if_neg h

/-- The flag of a value by the value's sign (R37, R8). -/
theorem flagOf_cases (v : Word) :
    (v.toInt = 0 ∧ flagOf v = flagZero) ∨ (v.toInt < 0 ∧ flagOf v = flagNegative) ∨
      (0 < v.toInt ∧ flagOf v = flagPositive) := by
  by_cases h0 : v = 0x0000#16
  · subst h0
    exact .inl ⟨rfl, flagOf_zero⟩
  · have hne : v.toInt ≠ 0 := fun h => h0 (BitVec.eq_of_toInt_eq h)
    have hmsb : v.msb = decide (v.toInt < 0) := BitVec.msb_eq_toInt
    rw [flagOf_of_msb h0, hmsb]
    by_cases hneg : v.toInt < 0
    · exact .inr (.inl ⟨hneg, by simp [hneg]⟩)
    · exact .inr (.inr ⟨by omega, by simp [hneg]⟩)

/-- Every value sets exactly one flag (R39). -/
theorem flagOf_oneHot (v : Word) : flagOf v = flagPositive ∨ flagOf v = flagZero ∨ flagOf v = flagNegative := by
  obtain ⟨-, h⟩ | ⟨-, h⟩ | ⟨-, h⟩ := flagOf_cases v <;> simp [h]

theorem flagOf_eq_negative_iff (v : Word) : flagOf v = flagNegative ↔ v.toInt < 0 := by
  obtain ⟨hv, h⟩ | ⟨hv, h⟩ | ⟨hv, h⟩ := flagOf_cases v <;> simp [h, flagZero, flagNegative, flagPositive] <;> omega

theorem flagOf_eq_zero_iff (v : Word) : flagOf v = flagZero ↔ v.toInt = 0 := by
  obtain ⟨hv, h⟩ | ⟨hv, h⟩ | ⟨hv, h⟩ := flagOf_cases v <;> simp [h, flagZero, flagNegative, flagPositive] <;> omega

theorem flagOf_eq_positive_iff (v : Word) : flagOf v = flagPositive ↔ 0 < v.toInt := by
  obtain ⟨hv, h⟩ | ⟨hv, h⟩ | ⟨hv, h⟩ := flagOf_cases v <;> simp [h, flagZero, flagNegative, flagPositive] <;> omega

/-- Settles O15: `setcc` writes `flagOf v` over the flags, and `flagOf` goes by the sign. -/
theorem setccSetsTheOneFlagOfTheValue : Obligations.SetccSetsTheOneFlagOfTheValue := by
  intro v s
  have hsign : v ≠ 0x0000#16 → (setcc v s).cond = if v.getLsbD 15 then flagNegative else flagPositive := by
    intro hv
    rw [setcc_cond, flagOf_of_msb hv, BitVec.msb_eq_getLsbD_last]
  refine ⟨?_, ?_, ?_, flagOf_eq_negative_iff v, flagOf_eq_zero_iff v, flagOf_eq_positive_iff v, fun _ => rfl, rfl,
    fun _ => rfl, ⟨rfl, rfl, rfl, rfl, rfl, rfl⟩, rfl, rfl⟩
  · rintro rfl
    rfl
  · intro hv h15
    rw [hsign hv, if_pos h15]
    rfl
  · intro hv h15
    rw [hsign hv, h15]
    rfl

/-! ## A state with other flags -/

variable (s) (c : BitVec 3)

/-- Other flags change no other item of the state. -/
@[simp] theorem withCond_frame :
    (s.withCond c).regs = s.regs ∧ (s.withCond c).pc = s.pc ∧ (s.withCond c).mem = s.mem ∧
      (s.withCond c).keys = s.keys ∧ (s.withCond c).params = s.params :=
  ⟨rfl, rfl, rfl, rfl, rfl⟩

@[simp] theorem reg_withCond (r : Reg) : (s.withCond c).reg r = s.reg r := rfl

@[simp] theorem storeRead_withCond (a : Word) : (s.withCond c).storeRead a = s.storeRead a := rfl

@[simp] theorem addrPc9_withCond (off : BitVec 9) : addrPc9 off (s.withCond c) = addrPc9 off s := rfl

@[simp] theorem addrBase6_withCond (b : Reg) (off : BitVec 6) :
    addrBase6 b off (s.withCond c) = addrBase6 b off s := rfl

/-- The written result replaces the flags, whatever they were. -/
@[simp] theorem writeResult_withCond (d : Reg) (v : Word) : writeResult d v (s.withCond c) = writeResult d v s := rfl

theorem pollKeyboard_withCond : pollKeyboard (s.withCond c) = (pollKeyboard s).withCond c := by
  obtain ⟨regs, pc, cond, engine, fc, fp, fi, mem, keys, output, service, params⟩ := s
  match keys with
  | [] => rfl
  | none :: _ => rfl
  | some _ :: _ => rfl

@[simp] theorem readEffect_withCond (a : Word) : readEffect a (s.withCond c) = (readEffect a s).withCond c := by
  simp only [readEffect, withCond_frame]
  split
  · exact pollKeyboard_withCond s c
  · rfl

@[simp] theorem loadInto_withCond (d : Reg) (a : Word) : loadInto d a (s.withCond c) = loadInto d a s := by
  simp [loadInto]

theorem runGetc_withCond : runGetc (s.withCond c) = (runGetc s).withCond c := by
  rcases hk : takeKey s.keys with _ | ⟨k, rest⟩ <;> simp [runGetc, inGet, hk] <;> rfl

theorem runIn_withCond : runIn (s.withCond c) = (runIn s).withCond c := by
  rcases hk : takeKey s.keys with _ | ⟨k, rest⟩ <;> simp [runIn, inGet, hk] <;> rfl

theorem runString_withCond (k : Service) (bytesOf : Word → List Byte) :
    runString k bytesOf (s.withCond c) = (runString k bytesOf s).withCond c := by
  simp only [runString, withCond_frame, reg_withCond]
  split <;> rfl

/-- An instruction other than BR answers from any flags what it answers from others, its own flags where it sets them
and the given ones where it does not (R38). -/
theorem exec_withCond {i : Instr} (hi : isBr i = false) :
    exec i (s.withCond c) = mapNext (fun t => if (flagReg i).isSome then t else t.withCond c) (exec i s) := by
  cases i with
  | br => cases hi
  | ld d off => exact congrArg Host.Outcome.next (loadInto_withCond s c d (addrPc9 off s))
  | ldr d b off => exact congrArg Host.Outcome.next (loadInto_withCond s c d (addrBase6 b off s))
  | ldi d off => simp [exec_ldi, mapNext, flagReg]
  | sti r off => simp [exec_sti, mapNext, flagReg]; rfl
  | trapGetc => exact congrArg Host.Outcome.next (runGetc_withCond s c)
  | trapIn => exact congrArg Host.Outcome.next (runIn_withCond (s.putBytes Config.inPrompt) c)
  | trapPuts => exact congrArg Host.Outcome.next (runString_withCond s c .puts putsBytes)
  | trapPutsp => exact congrArg Host.Outcome.next (runString_withCond s c .putsp putspBytes)
  | trapUndefined high v => rw [exec_trapUndefined, exec_trapUndefined]; split <;> rfl
  | _ => rfl

/-- Settles O16: `exec_cond` says who sets the flags, `exec_withCond` who reads them. -/
theorem flagsAreWrittenAndReadOnlyAsListed : Obligations.FlagsAreWrittenAndReadOnlyAsListed :=
  ⟨fun _ _ _ h => exec_cond h, fun _ s c hi => exec_withCond s c hi⟩

end Sys2Proof.Machine
end

section
/-! PROOFS. The invariant along a step and along a run with the host (spec/10_state.md R39 to R41, spec/44_trap.md
R262). -/

namespace Sys2Proof.Machine

variable {i : Instr} {s t : State}

/-! ## A step -/

theorem step_of_ne_running (h : s.engine ≠ .running) : step s = .next s := by
  obtain ⟨he, -⟩ | ⟨k, he, -⟩ | ⟨-, hst⟩ := step_cases s
  · exact absurd he h
  · exact absurd he h
  · exact hst

theorem step_of_atInstruction (h : AtInstruction s) : step s = exec (decode (fetch s).1) (fetch s).2 := by
  obtain ⟨he, hs⟩ := h
  obtain ⟨-, -, hst⟩ | ⟨k, -, hk, -⟩ | ⟨hne, -⟩ := step_cases s
  · exact hst
  · cases hs.symm.trans hk
  · exact absurd he hne

theorem step_of_service {k : Service} (he : s.engine = .running) (hs : s.service = some k) :
    step s = .next (resumeService k s) := by
  obtain ⟨-, hn, -⟩ | ⟨k', -, hk, hst⟩ | ⟨hne, -⟩ := step_cases s
  · cases hs.symm.trans hn
  · cases hs.symm.trans hk
    exact hst
  · exact absurd he hne

/-- The fetch moves pc and polls; everything else stays (R111). -/
@[simp] theorem fetch_frame (s : State) :
    (fetch s).2.regs = s.regs ∧ (fetch s).2.pc = s.pc + 1#16 ∧ (fetch s).2.cond = s.cond ∧
      (fetch s).2.engine = s.engine ∧ (fetch s).2.faultCause = s.faultCause ∧ (fetch s).2.faultPc = s.faultPc ∧
      (fetch s).2.faultIr = s.faultIr ∧ (fetch s).2.output = s.output ∧ (fetch s).2.service = s.service ∧
      (fetch s).2.params = s.params := by
  simp [fetch]

/-- Every step answers a next state, since every fetched word decodes to a well-formed instruction; and it keeps the
parameters. -/
theorem step_next (s : State) : ∃ t, step s = .next t ∧ t.params = s.params := by
  obtain ⟨-, -, hst⟩ | ⟨k, -, -, hst⟩ | ⟨-, hst⟩ := step_cases s
  · obtain ⟨t, ht⟩ := exec_next_of_wellFormed (wellFormed_decode (fetch s).1) (fetch s).2
    exact ⟨t, hst.trans ht, by simp [exec_params ht]⟩
  · exact ⟨_, hst, resumeService_params s k⟩
  · exact ⟨s, hst, rfl⟩

/-! ## The engine state -/

/-- Settles O56: outside Running a step is idle, and `start` sets the engine state alone. -/
theorem nothingExecutesOutsideRunning : Obligations.NothingExecutesOutsideRunning := by
  intro s
  refine ⟨step_of_ne_running, fun h => ?_⟩
  rw [hostStart_of_ready h]
  exact ⟨rfl, rfl, rfl, fun _ => rfl, rfl⟩

/-- What stops a Running engine: HALT, and the instructions that fault (R40, R301). -/
theorem exec_engine_of_running (he : s.engine = .running) (h : exec i s = .next t) :
    (t.engine = .halted ↔ i = .trapHalt) ∧ (t.engine = .faulted ↔ isFaulting i = true) ∧ t.engine ≠ .ready := by
  rw [exec_engine h, he]
  by_cases hhalt : i = .trapHalt
  · subst hhalt
    simp [isFaulting]
  · cases isFaulting i <;> simp [hhalt]

/-- Settles O54: `exec_engine_of_running` at the fetched instruction, and a service that goes on keeps the engine
state. -/
theorem onlyHaltAndFaultsStopTheEngine : Obligations.OnlyHaltAndFaultsStopTheEngine := by
  refine ⟨fun s t hat hst => ?_, fun s t he hs hst => ?_⟩
  · rw [step_of_atInstruction hat] at hst
    exact exec_engine_of_running (by simp [hat.1]) hst
  · obtain ⟨k, hk⟩ := Option.ne_none_iff_exists'.mp hs
    cases (step_of_service he hk).symm.trans hst
    rw [resumeService_engine, he]

/-! ## The invariant -/

theorem inv_fetch (he : s.engine = .running) (h : Inv s) : Inv (fetch s).2 := by
  obtain ⟨hmem, hcond, hfault, hservice, hparams⟩ := h
  have hclear := (faultRecordOk_of_ne_faulted (by simp [he])).mp hfault
  refine ⟨wf_readEffect s s.pc hmem, by simpa [CondOneHot] using hcond, ?_, .inr (by simp [he]), by simpa using hparams⟩
  exact (faultRecordOk_of_ne_faulted (by simp [he])).mpr (by simpa using hclear)

/-- One flag stays one flag: the instruction sets the flag of a value or leaves the flags. -/
theorem exec_condOneHot (h : exec i s = .next t) (hs : CondOneHot s) : CondOneHot t := by
  have hcond := exec_cond h
  cases hi : flagReg i with
  | some d =>
    rw [hi] at hcond
    simpa only [CondOneHot, hcond] using flagOf_oneHot (t.reg d)
  | none =>
    rw [hi] at hcond
    simpa only [CondOneHot, hcond] using hs

/-- A raised fault leaves a record that fits, where the word recorded decodes to the instruction that raised it. -/
theorem faultRecordOk_raiseFault {c : FaultCause} (hc : c.code = faultCauseOf i) (hi : decode (encode i) = i)
    (s : State) : FaultRecordOk (raiseFault c (encode i) s) := by
  have hpc : s.pc = s.pc - 1#16 + 1#16 := (BitVec.sub_add_cancel _ _).symm
  exact ⟨hpc, c.code_ne_zero, by rw [raiseFault_faultCause, raiseFault_faultIr, hi, hc]⟩

/-- An instruction executed by a Running engine leaves a fitting fault record: its own if it faults, the clear one if
not. -/
theorem exec_faultRecordOk (he : s.engine = .running) (h : exec i s = .next t) (hs : FaultRecordOk s) :
    FaultRecordOk t := by
  cases hi : isFaulting i with
  | true =>
    obtain ⟨c, hc, hdec, rfl⟩ := exec_of_isFaulting hi h
    exact faultRecordOk_raiseFault hc hdec s
  | false =>
    obtain ⟨hengine, hcause, hpc, hir⟩ := exec_engine_of_not_faulting hi h
    have hclear := (faultRecordOk_of_ne_faulted (by simp [he])).mp hs
    have hne : t.engine ≠ .faulted := by rw [hengine]; split <;> simp [he]
    rw [faultRecordOk_of_ne_faulted hne, hcause, hpc, hir]
    exact hclear

/-- An instruction that stops the engine leaves no service in progress, for there was none (R40). -/
theorem exec_serviceOk (hat : AtInstruction s) (h : exec i s = .next t) : ServiceOk t := by
  obtain ⟨he, hs⟩ := hat
  cases hi : isFaulting i with
  | true =>
    obtain ⟨c, -, -, rfl⟩ := exec_of_isFaulting hi h
    exact .inl hs
  | false =>
    by_cases hhalt : i = .trapHalt
    · subst hhalt
      cases h
      exact .inl hs
    · refine .inr ?_
      rw [exec_engine h, hi, if_neg hhalt]
      exact he

/-- Every instruction that a Running engine executes keeps the invariant. -/
theorem inv_exec (hat : AtInstruction s) (h : exec i s = .next t) (hs : Inv s) : Inv t := by
  obtain ⟨hmem, hcond, hfault, -, hparams⟩ := hs
  exact ⟨exec_wf h hmem, exec_condOneHot h hcond, exec_faultRecordOk hat.1 h hfault, exec_serviceOk hat h,
    by rwa [exec_params h]⟩

/-- A service that goes on keeps the invariant: it changes no item the invariant names but the service itself. -/
theorem inv_resumeService (k : Service) (he : s.engine = .running) (h : Inv s) : Inv (resumeService k s) := by
  obtain ⟨hmem, hcond, hfault, -, hparams⟩ := h
  refine ⟨by simpa using hmem, by simpa [CondOneHot] using hcond, ?_, .inr (by simp [he]), by simpa using hparams⟩
  simpa [FaultRecordOk] using hfault

theorem inv_step (h : Inv s) (hst : step s = .next t) : Inv t := by
  obtain ⟨he, hs, hex⟩ | ⟨k, he, -, hres⟩ | ⟨-, hidle⟩ := step_cases s
  · exact inv_exec (by simp [AtInstruction, he, hs]) (hex.symm.trans hst) (inv_fetch he h)
  · cases hres.symm.trans hst
    exact inv_resumeService k he h
  · cases hidle.symm.trans hst
    exact h

/-- Settles O9: `inv_resetWith`, the default parameters being allowed ones. -/
theorem invariantHoldsAtReset : Obligations.InvariantHoldsAtReset :=
  ⟨inv_resetWith (by decide), fun _ => inv_resetWith⟩

/-- Settles O10: a fetched instruction, a service that goes on, or nothing. -/
theorem everyStepKeepsTheInvariant : Obligations.EveryStepKeepsTheInvariant := fun _ _ => inv_step

/-! ## A run with the host -/

/-- Every event can happen in every state, and keeps the invariant and the parameters. -/
theorem runEvent_keeps_inv (e : Event) (h : Inv s) : ∃ t, runEvent e s = some t ∧ Inv t ∧ t.params = s.params := by
  cases e with
  | step =>
    obtain ⟨t, hst, hp⟩ := step_next s
    exact ⟨t, by simp [runEvent, hst], inv_step h hst, hp⟩
  | host op => exact ⟨hostApply op s, rfl, inv_hostApply op h, hostApply_params op s⟩

/-- Settles O12, by induction on the events, from every state with the invariant. -/
theorem everyRunWithTheHostKeepsTheInvariant : Obligations.EveryRunWithTheHostKeepsTheInvariant := by
  intro es
  induction es with
  | nil => exact fun s h => ⟨s, rfl, h, rfl⟩
  | cons e es ih =>
    intro s h
    obtain ⟨t, he, ht, htp⟩ := runEvent_keeps_inv e h
    obtain ⟨u, hes, hu, hup⟩ := ih t ht
    exact ⟨u, by simp [runEvents, he, hes], hu, hup.trans htp⟩

end Sys2Proof.Machine
end

section
/-! PROOFS. The keyboard cells: what a poll leaves in them, with a key pending and with none, and that every other read
and every write is plain (spec/20_memory.md R64 to R66). -/

namespace Sys2Proof.Machine

variable {s : State} {c : Byte} {rest : List (Option Byte)}

/-! ## A state with another input queue -/

@[simp] theorem withKeys_keys (s : State) (ks : List (Option Byte)) : (s.withKeys ks).keys = ks := rfl

@[simp] theorem storeRead_withKeys (s : State) (ks : List (Option Byte)) (a : Word) :
    (s.withKeys ks).storeRead a = s.storeRead a := rfl

/-! ## The poll with a key and with none -/

/-- A poll that finds a key takes it, and writes the ready word to KBSR and the key to KBDR (R64). -/
theorem pollKeyboard_of_key (h : s.keys = some c :: rest) :
    pollKeyboard s = ((s.withKeys rest).memWrite s.params.kbsrAddr s.params.kbsrReady).memWrite s.params.kbdrAddr
      (keyWord c) := by
  obtain ⟨c', rest', h', hp⟩ | ⟨rest', h' | ⟨h', -⟩, -⟩ := pollKeyboard_cases s
  · obtain ⟨rfl, rfl⟩ : c = c' ∧ rest = rest' := by simpa using h.symm.trans h'
    exact hp
  all_goals cases h.symm.trans h'

/-- A poll that finds no key clears KBSR and writes no other cell (R64). -/
theorem pollKeyboard_of_no_key (h : s.keys = none :: rest ∨ (s.keys = [] ∧ rest = [])) :
    pollKeyboard s = (s.withKeys rest).memWrite s.params.kbsrAddr 0x0000#16 := by
  obtain ⟨c', rest', h', -⟩ | ⟨rest', h', hp⟩ := pollKeyboard_cases s
  · simp [h'] at h
  · obtain h | ⟨h, rfl⟩ := h
    · obtain rfl : rest = rest' := by simpa [h] using h'
      exact hp
    · obtain rfl : rest' = [] := by simpa [h] using h'
      exact hp

/-- A queue whose next answer is no key is empty or begins with "no key". -/
theorem exists_no_key (h : ∀ c rest, s.keys ≠ some c :: rest) :
    ∃ rest, s.keys = none :: rest ∨ (s.keys = [] ∧ rest = []) := by
  match hk : s.keys with
  | [] => exact ⟨[], .inr ⟨rfl, rfl⟩⟩
  | none :: rest => exact ⟨rest, .inl rfl⟩
  | some c :: rest => exact absurd hk (h c rest)

/-- A store moves no device cell: a read of KBSR after it is the poll too. -/
theorem readEffect_kbsr_memWrite (s : State) (a v : Word) :
    readEffect s.params.kbsrAddr (s.memWrite a v) = pollKeyboard (s.memWrite a v) := readEffect_kbsr (s.memWrite a v)

/-- Settles O32: the poll with a key, the poll with none, and what either leaves. -/
theorem kbsrReadPollsTheHost : Obligations.KbsrReadPollsTheHost := by
  intro s ⟨hne, _, _, hready, _⟩
  simp only [memRead_fst, memRead_snd, readEffect_kbsr]
  refine ⟨fun c rest h => ?_, fun rest h => ?_, fun a => storeRead_pollKeyboard_of_ne s, reg_congr (by simp), by simp,
    by simp, by simp [SameEngine], by simp⟩
  · simp [pollKeyboard_of_key h, hne, hready, keyWord, zext]
  · simp [pollKeyboard_of_no_key h, hne.symm]

/-! ## Plain reads and writes -/

/-- KBDR gives what a store last wrote there (R65, R66). -/
theorem memRead_kbdr_memWrite (hne : s.params.kbsrAddr ≠ s.params.kbdrAddr) (v : Word) :
    (memRead s.params.kbdrAddr (s.memWrite s.params.kbdrAddr v)).1 = v := by
  rw [memRead_of_ne (s.memWrite s.params.kbdrAddr v) hne.symm, storeRead_memWrite, if_pos rfl]

/-- Settles O33: `memRead_of_ne`, at KBDR after a poll and after a store too. -/
theorem otherReadsArePlain : Obligations.OtherReadsArePlain := by
  refine ⟨fun a s => memRead_of_ne s, fun s ⟨hne, _⟩ => ⟨memRead_of_ne s hne.symm, fun c rest h => ?_, fun v => ?_⟩⟩
  · rw [memRead_snd, readEffect_kbsr, memRead_of_ne (pollKeyboard s) (by simpa using hne.symm), pollKeyboard_of_key h]
    simp [hne, keyWord, zext]
  · exact memRead_kbdr_memWrite hne v

/-- What changes memory alone leaves registers, pc, flags, engine and host. -/
theorem frame_of_other_mem (s : State) (m : Memory) :
    SameRegs s { s with mem := m } ∧ ({ s with mem := m } : State).pc = s.pc ∧
      ({ s with mem := m } : State).cond = s.cond ∧ SameEngine s { s with mem := m } ∧ SameHost s { s with mem := m } :=
  ⟨fun _ => rfl, rfl, rfl, ⟨rfl, rfl, rfl, rfl, rfl, rfl⟩, rfl, rfl⟩

/-- What a store put at KBSR is gone after the poll, which writes that cell first. -/
theorem pollKeyboard_memWrite_kbsr (s : State) (v : Word) :
    pollKeyboard (s.memWrite s.params.kbsrAddr v) = pollKeyboard s := by
  have hw : ∀ (rest : List (Option Byte)) (w : Word),
      ((s.memWrite s.params.kbsrAddr v).withKeys rest).memWrite s.params.kbsrAddr w =
        (s.withKeys rest).memWrite s.params.kbsrAddr w := fun rest w => by
    simp [State.memWrite, State.withKeys, write_write]
  by_cases h : ∃ c rest, s.keys = some c :: rest
  · obtain ⟨c, rest, h⟩ := h
    rw [pollKeyboard_of_key h, pollKeyboard_of_key (s := s.memWrite _ v) h, memWrite_params, hw]
  · obtain ⟨rest, h⟩ := exists_no_key (by simpa using h)
    rw [pollKeyboard_of_no_key h, pollKeyboard_of_no_key (s := s.memWrite _ v) h, memWrite_params, hw]

/-- Settles O34: a write sets its cell, and a poll writes over KBSR and, where it finds no key, leaves KBDR. -/
theorem writesHaveNoSpecialAddresses : Obligations.WritesHaveNoSpecialAddresses := by
  intro s v
  refine ⟨fun a b => storeRead_memWrite s a v b, ?_, fun ⟨hne, _⟩ => ⟨?_, fun hk => ?_⟩,
    fun a => frame_of_other_mem s (s.mem.write a.toNat v)⟩
  · rw [memRead, memRead, readEffect_kbsr_memWrite, readEffect_kbsr, pollKeyboard_memWrite_kbsr]
  · exact memRead_kbdr_memWrite hne v
  · obtain ⟨rest, h⟩ := exists_no_key hk
    have hpoll := pollKeyboard_of_no_key (s := s.memWrite s.params.kbdrAddr v) h
    rw [memRead_snd, readEffect_kbsr_memWrite, memRead_of_ne _ (by simpa using hne.symm), hpoll]
    simp [hne.symm]

end Sys2Proof.Machine
end

section
/-! PROOFS. Which instructions change memory, and the word that a fetch or a load away from KBSR reads
(spec/20_memory.md R61, R65, R70, R77). -/

namespace Sys2Proof.Machine

variable {i : Instr} {s t : State}

/-- Settles O8: `step_next`. -/
theorem everyStepAnswersANextState : Obligations.EveryStepAnswersANextState := step_next

/-! ## A load -/

theorem resultWritten_writeResult (d : Reg) (v : Word) (s : State) : ResultWritten d v s (writeResult d v s) :=
  ⟨reg_setReg_self s d v, fun _ hr => reg_setReg_of_ne s v hr, rfl, rfl, fun _ => rfl, ⟨rfl, rfl, rfl, rfl, rfl, rfl⟩,
    rfl, rfl⟩

/-- A load away from KBSR writes the cell and does nothing else (R65). -/
theorem resultWritten_loadInto_of_ne (d : Reg) {a : Word} (h : a ≠ s.params.kbsrAddr) :
    ResultWritten d (s.storeRead a) s (loadInto d a s) := by
  rw [loadInto, memRead_of_ne s h]
  exact resultWritten_writeResult d _ s

/-- Settles O27: each read of the load is plain, so the load writes its result and does nothing else. -/
theorem loadsAwayFromKbsrChangeNoCell : Obligations.LoadsAwayFromKbsrChangeNoCell := by
  intro s d base off9 off6
  refine ⟨fun ha => ⟨_, exec_ld s d off9, resultWritten_loadInto_of_ne d ha⟩,
    fun ha => ⟨_, exec_ldr s d base off6, resultWritten_loadInto_of_ne d ha⟩,
    fun hp ha => ⟨_, exec_ldi s d off9, ?_⟩⟩
  have hread : memRead (addrPc9 off9 s) s = (s.storeRead (addrPc9 off9 s), s) := memRead_of_ne s hp
  rw [hread]
  exact resultWritten_loadInto_of_ne d ha

/-- A load leaves every cell but the two that its read may poll (R64). -/
theorem storeRead_loadInto_of_ne (d : Reg) (a : Word) {b : Word} (h1 : b ≠ s.params.kbsrAddr)
    (h2 : b ≠ s.params.kbdrAddr) : (loadInto d a s).storeRead b = s.storeRead b :=
  storeRead_readEffect_of_ne s a h1 h2

/-! ## Memory after an instruction -/

/-- An instruction that makes no data access leaves memory (R61). -/
theorem exec_mem_of_not_dataAccess (hi : isDataAccess i = false) (h : exec i s = .next t) : t.mem = s.mem := by
  cases i with
  | ld | ldi | ldr | st | sti | str => cases hi
  | rti | reserved | trapUndefined => obtain ⟨c, -, -, rfl⟩ := exec_of_isFaulting rfl h; rfl
  | br n z p off => rw [exec_br_setPc] at h; cases h; rfl
  | _ => cases h; simp

/-- An instruction that is no store leaves every cell but KBSR and KBDR (R70). -/
theorem exec_storeRead_of_not_store {a : Word} (hi : isStore i = false) (h : exec i s = .next t)
    (h1 : a ≠ s.params.kbsrAddr) (h2 : a ≠ s.params.kbdrAddr) : t.storeRead a = s.storeRead a := by
  cases i with
  | st | sti | str => cases hi
  | ld | ldr => cases h; exact storeRead_loadInto_of_ne _ _ h1 h2
  | ldi d off =>
    cases h
    rw [addrIndirect9_snd, storeRead_loadInto_of_ne _ _ (by simpa using h1) (by simpa using h2)]
    exact storeRead_readEffect_of_ne s _ h1 h2
  | _ => exact storeRead_congr (exec_mem_of_not_dataAccess rfl h) a

/-- Settles O35: the memory of what makes no data access, and the cells of what is no store. -/
theorem memoryChangesByStoresAndPollsOnly : Obligations.MemoryChangesByStoresAndPollsOnly :=
  ⟨fun _ _ _ h hi => exec_mem_of_not_dataAccess hi h, fun _ _ _ _ h hi => exec_storeRead_of_not_store hi h⟩

/-! ## A fetch -/

/-- Away from KBSR the fetch takes the cell at pc and moves pc (R65, R111). -/
theorem fetch_of_ne (h : s.pc ≠ s.params.kbsrAddr) : fetch s = (s.storeRead s.pc, s.setPc (s.pc + 1#16)) := by
  rw [fetch, memRead_of_ne s h]

/-- Away from KBSR a step executes the cell at pc. -/
theorem step_of_pc_ne (hat : AtInstruction s) (h : s.pc ≠ s.params.kbsrAddr) :
    step s = exec (decode (s.storeRead s.pc)) (s.setPc (s.pc + 1#16)) := by
  rw [step_of_atInstruction hat, fetch_of_ne h]

/-- Settles O31: ST with offset 0 writes the cell that the next step then fetches. -/
theorem storedWordRunsAsTheNextInstruction : Obligations.StoredWordRunsAsTheNextInstruction := by
  intro s r hat hpc hpc1 hdec
  refine ⟨(s.setPc (s.pc + 1#16)).memWrite (s.pc + 1#16) (s.reg r), ?_, rfl, ?_⟩
  · rw [step_of_pc_ne hat hpc, hdec, exec_st]
    simp [addrPc9, sext]
  · rw [step_of_pc_ne (by exact hat) (by exact hpc1)]
    simp [BitVec.add_assoc]

end Sys2Proof.Machine
end

section
/-! PROOFS. The words of an image and the cells they are loaded into (spec/20_memory.md R79 to R84). -/

namespace Sys2Proof.Machine

/-! ## The words of an image -/

/-- A byte pair is a word, the first byte its bits 15..8 (R81). -/
theorem byte_append_eq_ofNat (hi lo : Byte) : hi ++ lo = BitVec.ofNat 16 (hi.toNat * 256 + lo.toNat) := by
  apply BitVec.eq_of_toNat_eq
  rw [BitVec.toNat_append, ← Nat.shiftLeft_add_eq_or_of_lt lo.isLt, Nat.shiftLeft_eq, BitVec.toNat_ofNat]
  omega

/-- The two bytes that an image holds of a word make the word. -/
theorem highByte_append_lowByte (w : Word) : highByte w ++ lowByte w = w :=
  (BitVec.extractLsb'_append_extractLsb'_eq_extractLsb' rfl).trans BitVec.extractLsb'_eq_self

/-- The words of an image's bytes are the image's words (R80, R81). -/
theorem imageWords_imageBytes (ws : List Word) : imageWords (imageBytes ws) = ws := by
  induction ws with
  | nil => rfl
  | cons w ws ih =>
    calc imageWords (imageBytes (w :: ws))
        = (highByte w ++ lowByte w) :: imageWords (imageBytes ws) := rfl
      _ = w :: ws := by rw [highByte_append_lowByte, ih]

/-- A trailing odd byte makes no word (R80, decision D23). -/
theorem imageWords_append_singleton (bytes : List Byte) (b : Byte) (h : bytes.length % 2 = 0) :
    imageWords (bytes ++ [b]) = imageWords bytes := by
  induction bytes using imageWords.induct with
  | case1 hi lo rest ih =>
    have hrest : rest.length % 2 = 0 := by simp at h; omega
    simp [imageWords, ih hrest]
  | case2 bytes hshort =>
    match bytes with
    | [] => rfl
    | [_] => simp at h
    | hi :: lo :: rest => exact absurd rfl (hshort hi lo rest)

theorem imageWords_of_length_lt_two {bytes : List Byte} (h : bytes.length < 2) : imageWords bytes = [] := by
  match bytes with
  | [] | [_] => rfl
  | _ :: _ :: _ => simp at h

/-! ## The cells of an image -/

/-- After a load from `a` on, an address of the space reads the word that the list holds for it, if there is one, and
what it held before if not; nothing is stored past the boundary (R80, R82). -/
theorem read_loadWords (m : Memory) (a b : Nat) (ws : List Word) (hb : b ≤ 0xFFFF) :
    (loadWords m a ws).read b = if a ≤ b then ws.getD (b - a) (m.read b) else m.read b := by
  induction ws generalizing m a with
  | nil => simp [loadWords]
  | cons w ws ih =>
    unfold loadWords
    split
    · rw [if_neg (by omega)]
    · rw [ih, read_write]
      obtain hlt | rfl | hgt := Nat.lt_trichotomy a b
      · rw [if_pos (by omega), if_pos hlt.le, if_neg hlt.ne', show b - a = b - (a + 1) + 1 by omega,
          List.getD_cons_succ]
      · simp
      · simp [show ¬ a + 1 ≤ b by omega, show ¬ a ≤ b by omega, hgt.ne]

/-- The state with an image's words loaded, cell by cell. -/
theorem storeRead_loadWords (s : State) (origin : Word) (ws : List Word) (a : Word) :
    ({ s with mem := loadWords s.mem origin.toNat ws } : State).storeRead a =
      if origin ≤ a then ws.getD (a.toNat - origin.toNat) (s.storeRead a) else s.storeRead a :=
  read_loadWords s.mem origin.toNat a.toNat ws (Nat.le_of_lt_succ a.isLt)

/-! ## preload -/

variable {s : State} {bytes : List Byte} {origin : Word} {ws : List Word}

theorem preload_of_words (he : s.engine = .ready) (hw : imageWords bytes = origin :: ws) :
    preload bytes s = (.success, { s with mem := loadWords s.mem origin.toNat ws }) := by
  simp [preload, he, hw]

theorem preloadBroken_of_words (stored : Nat) (he : s.engine = .ready) (hw : imageWords bytes = origin :: ws) :
    preloadBroken bytes stored s = (.failure, { s with mem := loadWords s.mem origin.toNat (ws.take stored) }) := by
  simp [preloadBroken, he, hw]

/-- The engine takes an image for its words only. -/
theorem preload_congr {bytes' : List Byte} (h : imageWords bytes' = imageWords bytes) (s : State) :
    preload bytes' s = preload bytes s := by
  rw [preload, preload, h]

/-- Preloading moves neither pc nor the engine state (R84). -/
@[simp] theorem preload_frame (bytes : List Byte) (s : State) :
    (preload bytes s).2.pc = s.pc ∧ (preload bytes s).2.engine = s.engine := by
  obtain ⟨-, h⟩ | ⟨-, -, h⟩ | ⟨origin, ws, -, -, h⟩ := preload_cases bytes s <;> simp [h]

/-- Nor does preloading any number of images. -/
theorem preload_foldl_frame (images : List (List Byte)) (s : State) :
    (images.foldl (fun u b => (preload b u).2) s).pc = s.pc ∧
      (images.foldl (fun u b => (preload b u).2) s).engine = s.engine := by
  induction images generalizing s with
  | nil => exact ⟨rfl, rfl⟩
  | cons b images ih => simpa using ih (preload b s).2

/-- Settles O38: the loaded cells, one by one, and the words of the image's bytes. -/
theorem preloadedImageReadsBack : Obligations.PreloadedImageReadsBack := by
  refine ⟨fun s origin ws he hfit => ?_, fun hi lo rest => ?_⟩
  · refine ⟨_, preload_of_words he (imageWords_imageBytes _), fun k hk => ?_⟩
    have haddr : (BitVec.ofNat 16 (origin.toNat + k)).toNat = origin.toNat + k :=
      Nat.mod_eq_of_lt (by omega)
    rw [storeRead_loadWords, if_pos (by rw [BitVec.le_def, haddr]; omega), haddr]
    simp [hk]
  · rw [imageWords, byte_append_eq_ofNat]

/-- Settles O39: every cell after the load, and nothing but memory written. -/
theorem preloadStopsAtTheBoundary : Obligations.PreloadStopsAtTheBoundary := by
  intro s bytes origin ws he hw
  exact ⟨_, preload_of_words he hw, storeRead_loadWords s origin ws, frame_of_other_mem s _⟩

/-- Settles O40: a short stream has no word, an odd byte adds none, and outside Ready nothing is accepted. -/
theorem shortOddAndUntimelyPreloads : Obligations.ShortOddAndUntimelyPreloads := by
  refine ⟨fun s bytes he hlen => ?_, fun s bytes b heven => ?_, fun s bytes he => ⟨?_, hostStart_of_ne_ready he⟩⟩
  · simp [preload, he, imageWords_of_length_lt_two hlen]
  · exact preload_congr (imageWords_append_singleton bytes b heven) s
  · exact if_neg he

/-- Settles O41: the words before the break are loaded, and the engine is still Ready. -/
theorem brokenPreloadStoresAPrefix : Obligations.BrokenPreloadStoresAPrefix := by
  refine ⟨fun s bytes origin ws j he hw => ?_, fun s bytes j he hw => by simp [preloadBroken, he, hw]⟩
  obtain ⟨hregs, hpc, hcond, hengine, hhost⟩ := frame_of_other_mem s (loadWords s.mem origin.toNat (ws.take j))
  refine ⟨_, preloadBroken_of_words j he hw, storeRead_loadWords s origin _, hregs, hpc, hcond, hengine, hhost, ?_⟩
  rw [hostStart_of_ready (by exact he)]
  exact ⟨rfl, rfl⟩

/-- Settles O42: preloading keeps pc and Ready as `reset` left them, and `start` keeps pc. -/
theorem programIsEnteredAt3000 : Obligations.ProgramIsEnteredAt3000 := by
  refine ⟨fun s images => ?_, fun s bytes => (preload_frame bytes s).1, fun s origin ws he => ?_⟩
  · obtain ⟨hpc, hengine⟩ := preload_foldl_frame images (hostReset s)
    rw [hostStart_of_ready hengine]
    exact ⟨hpc, rfl⟩
  · rw [preload_of_words he (imageWords_imageBytes _)]

end Sys2Proof.Machine
end

section
/-! PROOFS. The host's input queue and the instructions that read no key (spec/20_memory.md R61, R64, spec/44_trap.md
R262). -/

namespace Sys2Proof.Machine

variable {i : Instr} (s : State) (ks : List (Option Byte))

/-- The walk over a string sees memory and R0 only. -/
theorem runString_withKeys (k : Service) (bytesOf : Word → List Byte) :
    runString k bytesOf (s.withKeys ks) = (runString k bytesOf s).withKeys ks := by
  rw [runString, runString, apply_ite (State.withKeys · ks)]
  rfl

/-- An instruction that reads no key answers with any queue what it answers with another, the queue untouched (R262). -/
theorem exec_withKeys (hi : mayReadHost i = false) :
    exec i (s.withKeys ks) = mapNext (fun t => t.withKeys ks) (exec i s) := by
  cases i with
  | ld | ldi | ldr | sti | trapGetc | trapIn => cases hi
  | br n z p off => rw [exec_br_setPc, exec_br_setPc]; rfl
  | trapPuts => exact congrArg Host.Outcome.next (runString_withKeys s ks .puts putsBytes)
  | trapPutsp => exact congrArg Host.Outcome.next (runString_withKeys s ks .putsp putspBytes)
  | trapUndefined high v => rw [exec_trapUndefined, exec_trapUndefined]; split <;> rfl
  | _ => rfl

/-- Given the queue it has, an instruction that reads no key answers that queue: it takes no key (R262). -/
theorem exec_keys_of_not_mayReadHost {s t : State} (hi : mayReadHost i = false) (h : exec i s = .next t) :
    t.keys = s.keys := by
  have hsame : exec i s = mapNext (fun t => t.withKeys s.keys) (exec i s) := exec_withKeys s s.keys hi
  rw [h] at hsame
  have ht : t = t.withKeys s.keys := by simpa [mapNext] using hsame
  rw [ht, withKeys_keys]

/-- Settles O59: any other queue goes through the instruction, so its own does too. -/
theorem hostKeysReachOnlyReadersOfThem : Obligations.HostKeysReachOnlyReadersOfThem :=
  fun _ s ks hi => ⟨exec_withKeys s ks hi, fun _ => exec_keys_of_not_mayReadHost hi⟩

end Sys2Proof.Machine
end

section
/-! PROOFS. The decoder and the encoder against one another and against the opcode table, over the bits that R101 names
(spec/30_encoding.md R101 to R109). The one fact behind them: a field that a mask covers is the same in every word that
is the same under the mask. -/

namespace Sys2Proof.Machine

open Laws.OpcodeField (handlerOf)

variable {w m : Word} {i : Instr}

/-! ## Fields under a mask -/

/-- Masking leaves a field that the mask covers. -/
theorem extract_and_of_covered {lo n : Nat} (w : Word) (hm : m.extractLsb' lo n = BitVec.allOnes n) :
    (w &&& m).extractLsb' lo n = w.extractLsb' lo n := by
  rw [BitVec.extractLsb'_and, hm, BitVec.and_allOnes]

/-- Words that agree under a mask agree in every field the mask covers. -/
theorem extract_eq_of_masked_eq {w' : Word} {lo n : Nat} (h : w &&& m = w' &&& m)
    (hm : m.extractLsb' lo n = BitVec.allOnes n) : w.extractLsb' lo n = w'.extractLsb' lo n := by
  rw [← extract_and_of_covered w hm, h, extract_and_of_covered w' hm]

/-- A mask reaches a placed field through its own bits of that field. -/
theorem place_and {n : Nat} (v : BitVec n) (lo : Nat) (m : Word) :
    place v lo &&& m = place (v &&& m.extractLsb' lo n) lo := by
  ext k hk
  simp only [place, BitVec.getElem_and, BitVec.getElem_shiftLeft, BitVec.getElem_setWidth, BitVec.getLsbD_and,
    BitVec.getLsbD_extractLsb']
  by_cases hlo : k < lo
  · simp [hlo]
  · by_cases hn : k - lo < n
    · simp [hlo, hn, show lo + (k - lo) = k by omega, BitVec.getLsbD_eq_getElem hk]
    · simp [BitVec.getLsbD_of_ge v (k - lo) (by omega)]

@[simp] theorem place_zero (n lo : Nat) : place 0#n lo = 0x0000#16 := by simp [place]

/-- A mask may gain a bit that is clear in the word. -/
theorem and_or_bit_of_clear {lo : Nat} (a : Word) (h : ¬w.extractLsb' lo 1 = 1#1) :
    w &&& (a ||| 0x0001#16 <<< lo) = w &&& a := by
  have hclear : w &&& 0x0001#16 <<< lo = 0x0000#16 := by
    have hbit := place_extract w lo 1
    rwa [(BitVec.eq_zero_or_eq_one _).resolve_right h, place_zero, eq_comm] at hbit
  rw [← masks_or, hclear, BitVec.or_zero]

/-! ## An instruction from its word -/

/-- The opcode field of every instruction's word selects its handler: the family OpcodeField in one statement. -/
theorem ofCode_opcodeField_encode (i : Instr) : Opcode.ofCode (opcodeField (encode i)) = handlerOf i := by
  open Laws.OpcodeField in
  cases i
  exacts [br .., addReg .., addImm .., ld .., st .., jsr .., jsrr .., andReg .., andImm .., ldr .., str .., rti ..,
    not .., ldi .., sti .., jmp .., reserved .., lea .., trapGetc, trapOut, trapPuts, trapIn, trapPutsp, trapHalt,
    trapUndefined ..]

/-- A word that has an instruction's opcode bits selects its handler. -/
theorem ofCode_opcodeField_of_masked_eq (h : w &&& m = encode i &&& m) (hm : m.extractLsb' 12 4 = BitVec.allOnes 4) :
    Opcode.ofCode (opcodeField w) = handlerOf i := by
  rw [← ofCode_opcodeField_encode i]
  exact congrArg Opcode.ofCode (extract_eq_of_masked_eq h hm)

/-- A word that has an instruction's named bits decodes to that instruction, whatever its other bits: each field that
the decoder reads is named. -/
theorem decode_of_named_eq (hi : i.wellFormed = true) (h : w &&& namedBits i = encode i &&& namedBits i) :
    decode w = i := by
  have hfield : ∀ lo n, (namedBits i).extractLsb' lo n = BitVec.allOnes n →
      w.extractLsb' lo n = (encode i).extractLsb' lo n := fun lo n => extract_eq_of_masked_eq h
  have hopcode : Opcode.ofCode (opcodeField w) = handlerOf i :=
    ofCode_opcodeField_of_masked_eq h (by cases i <;> simp only [namedBits] <;> decide)
  rw [decode, hopcode]
  cases i with simp only [namedBits, encode] at hfield
  | trapUndefined high v =>
    have hv : isServiceVector v = false := by simpa [Instr.wellFormed] using hi
    simp (disch := decide) [handlerOf, trapHighField, vectorField, hfield, extract_or, extract_place_self,
      extract_place_below, extract_place_above, decodeTrap_of_not_service high hv]
  | trapGetc | trapOut | trapPuts | trapIn | trapPutsp | trapHalt =>
    simp (disch := decide) [handlerOf, vectorField, hfield, decodeTrap, extract_or, extract_place_self,
      extract_place_below]
  | addReg | andReg =>
    have hmode : ¬bit5 w = 1#1 := by
      simp (disch := decide) [bit5, hfield, extract_or, extract_place_below, extract_place_above]
    simp (disch := decide) [handlerOf, hmode, drField, baseField, sr2Field, hfield, extract_or, extract_place_self,
      extract_place_below, extract_place_above]
  | addImm | andImm =>
    have hmode : bit5 w = 1#1 := by
      simp (disch := decide) [bit5, hfield, extract_or, extract_place_self, extract_place_below, extract_place_above]
    simp (disch := decide) [handlerOf, hmode, drField, baseField, imm5Field, hfield, extract_or, extract_place_self,
      extract_place_below, extract_place_above]
  | _ =>
    simp (disch := decide) [handlerOf, drField, baseField, pcOffset9Field, pcOffset11Field, offset6Field, restField,
      bit11, bit10, bit9, hfield, extract_or, extract_place_self, extract_place_below, extract_place_above]

/-- Settles O1: a word has its own named bits. -/
theorem decodeOfEncodeIsTheInstruction : Obligations.DecodeOfEncodeIsTheInstruction :=
  fun _ hi => decode_of_named_eq hi rfl

/-! ## A word from its instruction -/

/-- A TRAP row's word has the named bits of the word decoded, for the vector alone selects the row (R107). -/
theorem encode_decodeTrap_named (high : BitVec 4) (v : Byte) :
    encode (decodeTrap high v) &&& namedBits (decodeTrap high v) =
      (place Opcode.trap.code 12 ||| place high 8 ||| place v 0) &&& namedBits (decodeTrap high v) := by
  unfold decodeTrap
  split_ifs
  case neg => rfl
  all_goals
    subst v
    simp [encode, namedBits, BitVec.and_or_distrib_right, place_and]

/-- The word of a decoded instruction has the named bits of the word it was decoded from: each is a field that the
decoder reads, the opcode, or the mode bit that selected the row. -/
theorem encode_decode_named (w : Word) :
    encode (decode w) &&& namedBits (decode w) = w &&& namedBits (decode w) := by
  have hcode := code_ofCode (opcodeField w)
  unfold decode
  cases ho : Opcode.ofCode (opcodeField w) with rw [ho] at hcode
  | add | and =>
    dsimp only
    split
    case isTrue hmode =>
      simp [encode, hcode, ← hmode, namedBits, opcodeField, drField, baseField, bit5, imm5Field, place_extract,
        masks_or, BitVec.and_assoc]
    case isFalse hmode =>
      have hbit : w &&& 0xFFE7#16 = w &&& 0xFFC7#16 := and_or_bit_of_clear 0xFFC7#16 hmode
      simp [encode, hcode, namedBits, opcodeField, drField, baseField, sr2Field, place_extract, masks_or,
        BitVec.and_assoc, hbit]
  | jsr =>
    dsimp only
    split
    case isTrue hmode =>
      simp [encode, hcode, ← hmode, namedBits, opcodeField, bit11, pcOffset11Field, place_extract, masks_or,
        BitVec.and_assoc]
    case isFalse hmode =>
      have hbit : w &&& 0xF9C0#16 = w &&& 0xF1C0#16 := and_or_bit_of_clear 0xF1C0#16 hmode
      simp [encode, hcode, namedBits, opcodeField, baseField, place_extract, masks_or, BitVec.and_assoc, hbit]
  | trap =>
    have hword : place (opcodeField w) 12 ||| place (trapHighField w) 8 ||| place (vectorField w) 0 = w := by
      simp only [opcodeField, trapHighField, vectorField, place_extract, masks_or]
      exact BitVec.and_allOnes
    rw [encode_decodeTrap_named, hcode, hword]
  | not =>
    simp [encode, hcode, namedBits, opcodeField, drField, baseField, BitVec.and_or_distrib_right, BitVec.and_assoc,
      place_extract, place_and, masks_or]
  | _ =>
    simp [encode, hcode, namedBits, opcodeField, bit11, bit10, bit9, pcOffset9Field, drField, baseField, restField,
      offset6Field, place_extract, masks_or, BitVec.and_assoc]

/-- Settles O2: `wellFormed_decode` and `encode_decode_named`. -/
theorem encodeOfDecodeKeepsEveryNamedBit : Obligations.EncodeOfDecodeKeepsEveryNamedBit :=
  fun w => ⟨wellFormed_decode w, encode_decode_named w⟩

/-- Settles O4: the other word has the named bits of the first one's instruction. -/
theorem ignoredBitsDoNotChangeTheInstruction : Obligations.IgnoredBitsDoNotChangeTheInstruction :=
  fun w _ h => decode_of_named_eq (wellFormed_decode w) (h.trans (encode_decode_named w).symm)

/-! ## The opcode table -/

/-- The word of every instruction matches the instruction's row. -/
theorem encode_and_mask (i : Instr) : encode i &&& (rowOf i).mask = (rowOf i).pattern := by
  cases i <;> simp [encode, rowOf, Opcode.code, BitVec.and_or_distrib_right, place_and] <;> rfl

/-- The bits that select a row are named. -/
theorem namedBits_and_mask (i : Instr) : namedBits i &&& (rowOf i).mask = (rowOf i).mask := by
  cases i <;> simp only [namedBits, rowOf] <;> decide

/-- The row of a decoded instruction matches the word. -/
theorem rowMatches_rowOf_decode (w : Word) : rowMatches (rowOf (decode w)) w = true := by
  rw [rowMatches, beq_iff_eq]
  calc w &&& (rowOf (decode w)).mask
      = (w &&& namedBits (decode w)) &&& (rowOf (decode w)).mask := by rw [BitVec.and_assoc, namedBits_and_mask]
    _ = (rowOf (decode w)).pattern := by
      rw [← encode_decode_named, BitVec.and_assoc, namedBits_and_mask, encode_and_mask]

/-- The row of an instruction stands in the table: the row of the undefined vector last, every other before it. -/
theorem rowOf_mem_dropLast_or_eq_last (i : Instr) :
    rowOf i ∈ opcodeTable.dropLast ∨ rowOf i = rowOf (.trapUndefined 0 0) := by
  cases i with
  | trapUndefined => exact .inr rfl
  | _ => exact .inl (by simp [opcodeTable, rowOf])

/-- Every row before the last is the row of an instruction other than the undefined vector. -/
theorem exists_rowOf_of_mem_dropLast {r : OpcodeRow} (h : r ∈ opcodeTable.dropLast) :
    ∃ i, (∀ high v, i ≠ .trapUndefined high v) ∧ rowOf i = r := by
  rw [opcodeTable, ← List.map_dropLast] at h
  obtain ⟨i, hi, rfl⟩ := List.mem_map.mp h
  refine ⟨i, ?_, rfl⟩
  rintro high v rfl
  simp at hi

/-- A word that matches a row other than the last one decodes to an instruction of that row: the row's mask covers the
opcode, the mode bit and the vector that select it (R102 to R104, R107). -/
theorem rowOf_decode_of_rowMatches (hi : ∀ high v, i ≠ .trapUndefined high v) (h : rowMatches (rowOf i) w = true) :
    rowOf (decode w) = rowOf i := by
  have hfield : ∀ lo n, (rowOf i).mask.extractLsb' lo n = BitVec.allOnes n →
      w.extractLsb' lo n = (rowOf i).pattern.extractLsb' lo n := fun lo n hm => by
    rw [← extract_and_of_covered w hm, eq_of_beq h]
  have hopcode : Opcode.ofCode (opcodeField w) = handlerOf i :=
    ofCode_opcodeField_of_masked_eq ((eq_of_beq h).trans (encode_and_mask i).symm)
      (by cases i <;> simp only [rowOf] <;> decide)
  rw [decode, hopcode]
  cases i with simp only [rowOf] at hfield
  | trapUndefined high v => exact absurd rfl (hi high v)
  | addReg | andReg =>
    have hmode : ¬bit5 w = 1#1 := by rw [bit5, hfield 5 1 (by decide)]; decide
    simp [handlerOf, hmode, rowOf]
  | addImm | andImm =>
    have hmode : bit5 w = 1#1 := hfield 5 1 (by decide)
    simp [handlerOf, hmode, rowOf]
  | jsr =>
    have hmode : bit11 w = 1#1 := hfield 11 1 (by decide)
    simp [handlerOf, hmode, rowOf]
  | jsrr =>
    have hmode : ¬bit11 w = 1#1 := by rw [bit11, hfield 11 1 (by decide)]; decide
    simp [handlerOf, hmode, rowOf]
  | trapGetc | trapOut | trapPuts | trapIn | trapPutsp | trapHalt =>
    simp (disch := decide) [handlerOf, decodeTrap, vectorField, hfield]
  | _ => rfl

/-- Settles O3: the first row that matches stands before the last one and is the instruction's, or it is the last one and
no row before it is the instruction's. -/
theorem decodeFollowsTheOpcodeTable : Obligations.DecodeFollowsTheOpcodeTable := by
  intro w
  have hmatch := rowMatches_rowOf_decode w
  have hsplit : opcodeTable = opcodeTable.dropLast ++ [rowOf (.trapUndefined 0 0)] := rfl
  rw [hsplit, List.find?_append]
  cases hfirst : opcodeTable.dropLast.find? (fun r => rowMatches r w) with
  | some r =>
    obtain ⟨i, hi, rfl⟩ := exists_rowOf_of_mem_dropLast (List.mem_of_find?_eq_some hfirst)
    have hrow : rowMatches (rowOf i) w = true := List.find?_some (p := fun r => rowMatches r w) hfirst
    rw [rowOf_decode_of_rowMatches hi hrow, Option.some_or]
  | none =>
    have hlast : rowOf (decode w) = rowOf (.trapUndefined 0 0) :=
      (rowOf_mem_dropLast_or_eq_last (decode w)).resolve_left fun hmem => List.find?_eq_none.mp hfirst _ hmem hmatch
    rw [hlast] at hmatch ⊢
    exact Option.none_or.trans (List.find?_cons_of_pos (p := fun r => rowMatches r w) hmatch)

/-- Settles O5, word by word. -/
theorem specExampleWordsDecode : Obligations.SpecExampleWordsDecode := by
  unfold Obligations.SpecExampleWordsDecode
  decide

end Sys2Proof.Machine
end

section
/-! PROOFS. From the fetched word to the instruction executed (spec/30_encoding.md R111): the words that fault (R109,
R302) and the word the host places (spec/20_memory.md R80). -/

namespace Sys2Proof.Machine

variable {s : State} {w : Word}

/-! ## The words that fault -/

/-- A row that faults has no ignored bit, so its instruction's word is the word fetched (R302). -/
theorem encode_decode_of_isFaulting (h : isFaulting (decode w) = true) : encode (decode w) = w := by
  have hall : namedBits (decode w) = BitVec.allOnes 16 := by
    cases hd : decode w with
    | rti | reserved | trapUndefined => rfl
    | _ => rw [hd] at h; cases h
  have hnamed := encode_decode_named w
  rwa [hall, BitVec.and_allOnes, BitVec.and_allOnes] at hnamed

theorem toNat_opcodeField (w : Word) : (opcodeField w).toNat = w.toNat / 4096 := by
  rw [opcodeField, BitVec.extractLsb'_toNat, Nat.shiftRight_eq_div_pow]
  omega

theorem toNat_vectorField (w : Word) : (vectorField w).toNat = w.toNat % 256 := by simp [vectorField]

/-- The words that fault: opcode 8, opcode 13, and opcode 15 with a vector that names no service (R109). -/
def IllegalWord (w : Word) : Prop :=
  w.toNat / 4096 = 8 ∨ w.toNat / 4096 = 13 ∨
    (w.toNat / 4096 = 15 ∧ (w.toNat % 256 < 0x20 ∨ 0x25 < w.toNat % 256))

/-- A word whose top four bits are a handler's number selects the handler. -/
theorem ofCode_opcodeField_of_toNat {o : Opcode} (h : w.toNat / 4096 = o.code.toNat) :
    Opcode.ofCode (opcodeField w) = o := by
  have hcode : opcodeField w = o.code := BitVec.eq_of_toNat_eq ((toNat_opcodeField w).trans h)
  rw [hcode, ofCode_code]

/-- An illegal word decodes to a row that faults, with the cause of its opcode (R109, R301). -/
theorem decode_of_illegalWord (h : IllegalWord w) :
    isFaulting (decode w) = true ∧ faultCauseOf (decode w) =
      if w.toNat / 4096 = 8 then 1#8 else if w.toNat / 4096 = 13 then 2#8 else 3#8 := by
  obtain hop | hop | ⟨hop, hv⟩ := h
  · simp [decode, ofCode_opcodeField_of_toNat (o := .rti) hop, hop, isFaulting, faultCauseOf]
  · simp [decode, ofCode_opcodeField_of_toNat (o := .reserved) hop, hop, isFaulting, faultCauseOf]
  · have hservice : isServiceVector (vectorField w) = false := by
      simp only [isServiceVector, BitVec.le_def, toNat_vectorField, Bool.and_eq_false_iff, decide_eq_false_iff_not,
        BitVec.toNat_ofNat]
      omega
    simp [decode, ofCode_opcodeField_of_toNat (o := .trap) hop, hop, decodeTrap_of_not_service _ hservice, isFaulting,
      faultCauseOf]

/-- Settles O53: the step executes a faulting row, whose own word is the word fetched. -/
theorem faultRecordsTheFetchedWord : Obligations.FaultRecordsTheFetchedWord := by
  intro s w hat hpc hcell hw
  obtain ⟨hfault, hcause⟩ := decode_of_illegalWord hw
  have hstep : step s = exec (decode w) (s.setPc (s.pc + 1#16)) := by rw [step_of_pc_ne hat hpc, hcell]
  obtain ⟨t, ht⟩ := exec_next_of_wellFormed (wellFormed_decode w) (s.setPc (s.pc + 1#16))
  obtain ⟨c, hc, -, rfl⟩ := exec_of_isFaulting hfault ht
  refine ⟨_, hstep.trans ht, rfl, by simp, encode_decode_of_isFaulting hfault, rfl, hc.trans hcause, ?_⟩
  simp [SameRegs, SameMemory, SameHost]

/-! ## The step -/

/-- Settles O6: the fetch is `MemRead` and the pre-increment, and away from KBSR it is plain. -/
theorem stepRunsTheDecodedInstruction : Obligations.StepRunsTheDecodedInstruction := by
  refine ⟨fun s hat => step_of_atInstruction hat, fun s w hat hpc hcell => ?_⟩
  rw [step_of_pc_ne hat hpc, hcell]

/-- The host never places a word at KBSR, for the entry address is not KBSR (log entry 24). -/
theorem placeAddr_ne_kbsrAddr (h : ParamsOk s.params) : placeAddr s ≠ s.params.kbsrAddr := by
  obtain ⟨-, hpc, -⟩ := h
  unfold placeAddr
  split
  · exact hpc.symm
  · assumption

theorem storeRead_placeAndStart (s : State) (w a : Word) :
    (placeAndStart s w).storeRead a = if a = placeAddr s then w else s.storeRead a :=
  storeRead_memWrite s (placeAddr s) w a

/-- The step after a word was placed executes it. -/
theorem step_placeAndStart (h : ParamsOk s.params) (w : Word) :
    step (placeAndStart s w) = exec (decode w) ((placeAndStart s w).setPc (placeAddr s + 1#16)) := by
  rw [step_of_pc_ne ⟨rfl, rfl⟩ (by simpa using placeAddr_ne_kbsrAddr h)]
  simp [storeRead_placeAndStart]

/-- Settles O7: the placed word is the cell at pc and pc is not KBSR, so the step executes it. -/
theorem placedWordRunsNext : Obligations.PlacedWordRunsNext := by
  intro s w hparams hw
  have hbits : s.withFetchWord 16 w = placeAndStart s (BitVec.ofNat 16 w) := by
    rw [State.withFetchWord, Nat.mod_eq_of_lt hw]
  rw [hbits]
  refine ⟨_, _, if_pos ⟨le_rfl, hw⟩, step_placeAndStart hparams _, rfl, ⟨rfl, rfl⟩, fun _ => rfl, rfl, ⟨rfl, rfl⟩,
    rfl, fun a ha => ?_⟩
  exact (storeRead_placeAndStart s _ a).trans (if_neg ha)

end Sys2Proof.Machine
end

section
/-! PROOFS. The operate instructions ADD, AND and NOT, and the subtraction built from them (spec/40_operate.md R140 to
R145). -/

namespace Sys2Proof.Machine

/-- A second result in the same register replaces the first one and its flags. -/
@[simp] theorem writeResult_writeResult (d : Reg) (v w : Word) (s : State) :
    writeResult d w (writeResult d v s) = writeResult d w s := by
  simp [writeResult, setcc, State.setReg]

/-- Adding the complement plus one subtracts, mod 2^16 (R145). -/
theorem add_not_add_one (x y : Word) : x + (~~~y + sext 1#5) = x - y := by
  have hone : sext 1#5 = 1#16 := by decide
  rw [hone, ← BitVec.neg_eq_not_add, ← BitVec.sub_eq_add_neg]

/-- Settles O22: the last ADD still reads `a` as it was, and its result replaces the two before it in `d`. -/
theorem notAddAddSubtracts : Obligations.NotAddAddSubtracts := by
  intro s d a b hda
  refine ⟨_, _, _, exec_not s d b, exec_addImm _ d d 1#5, exec_addReg _ d a d, ?_⟩
  simp only [writeResult_writeResult, reg_writeResult, if_neg hda.symm, if_true, add_not_add_one]
  exact resultWritten_writeResult d _ s

/-- Settles O19: each form answers with its sum as the result written. -/
theorem addWritesTheSum : Obligations.AddWritesTheSum := fun s d a b imm =>
  ⟨⟨_, exec_addReg s d a b, resultWritten_writeResult d _ s⟩,
    ⟨_, exec_addImm s d a imm, resultWritten_writeResult d _ s⟩⟩

/-- Settles O20: each form answers with its conjunction as the result written. -/
theorem andWritesTheConjunction : Obligations.AndWritesTheConjunction := fun s d a b imm =>
  ⟨⟨_, exec_andReg s d a b, resultWritten_writeResult d _ s⟩,
    ⟨_, exec_andImm s d a imm, resultWritten_writeResult d _ s⟩⟩

/-- Settles O21: NOT answers with the complement as the result written. -/
theorem notWritesTheComplement : Obligations.NotWritesTheComplement := fun s d a =>
  ⟨_, exec_not s d a, resultWritten_writeResult d _ s⟩

end Sys2Proof.Machine
end

section
/-! PROOFS. Control transfer: BR, JMP (RET), JSR and JSRR (spec/41_control.md R170 to R174). -/

namespace Sys2Proof.Machine

variable {i : Instr} {s t : State}

/-! ## BR's test -/

/-- Two 3-bit masks meet exactly where one of their three bits is set in both. -/
theorem and_ne_zero_iff_bits (m c : BitVec 3) : m &&& c ≠ 0#3 ↔
    (m.getLsbD 2 = true ∧ c.getLsbD 2 = true) ∨ (m.getLsbD 1 = true ∧ c.getLsbD 1 = true) ∨
      (m.getLsbD 0 = true ∧ c.getLsbD 0 = true) := by
  revert m c
  decide

/-- BR is taken exactly where its n, z or p bit meets the NEGATIVE, ZERO or POSITIVE flag (R36, R170). -/
theorem branchTaken_iff (n z p : BitVec 1) (s : State) : branchTaken n z p s = true ↔
    (n = 1#1 ∧ s.cond.getLsbD 2 = true) ∨ (z = 1#1 ∧ s.cond.getLsbD 1 = true) ∨
      (p = 1#1 ∧ s.cond.getLsbD 0 = true) := by
  have hone (b : BitVec 1) : b.getLsbD 0 = true ↔ b = 1#1 := by revert b; decide
  rw [branchTaken, bne_iff_ne, and_ne_zero_iff_bits]
  simp only [BitVec.getLsbD_append, Nat.reduceLT, Nat.reduceSub, reduceIte, hone]

/-- The mask 000 meets no flag (R170). -/
theorem branchTaken_mask_zero (s : State) : branchTaken 0#1 0#1 0#1 s = false := by
  simp [← Bool.not_eq_true, branchTaken_iff]

/-- The mask 111 meets whichever one flag is set (R39, R170). -/
theorem branchTaken_mask_all (h : CondOneHot s) : branchTaken 1#1 1#1 1#1 s = true := by
  rw [branchTaken_iff]
  obtain hc | hc | hc := h <;> rw [hc] <;> decide

/-! ## The state a control transfer leaves -/

/-- Moving pc alone leaves everything else. -/
theorem setPc_rest (v : Word) (s : State) :
    SameRegs s (s.setPc v) ∧ (s.setPc v).cond = s.cond ∧ SameMemory s (s.setPc v) ∧ SameEngine s (s.setPc v) ∧
      SameHost s (s.setPc v) := by
  simp [SameRegs, SameMemory, SameEngine, SameHost]

/-- Saving the return address and moving pc writes R7 and leaves everything else (R172, R173). -/
theorem saveLink_setPc_rest (v : Word) (s : State) :
    ((saveLink s).setPc v).reg 7#3 = s.pc ∧ SameRegsBut 7#3 s ((saveLink s).setPc v) ∧
      ((saveLink s).setPc v).cond = s.cond ∧ SameMemory s ((saveLink s).setPc v) ∧
      SameEngine s ((saveLink s).setPc v) ∧ SameHost s ((saveLink s).setPc v) :=
  ⟨(reg_saveLink s 7#3).trans (if_pos rfl), fun r hr => (reg_saveLink s r).trans (if_neg hr),
    by simp [SameMemory, SameEngine, SameHost]⟩

/-- A control transfer answers with pc as R34 has it: JSR and JSRR, the two that write R7, after the return address is
saved, BR and JMP on the state as it was (R170 to R173). -/
theorem exec_of_isControl (hi : isControl i = true) (s : State) :
    exec i s = .next ((if writesRegs i = [7#3] then saveLink s else s).setPc (pcAfter i s)) := by
  cases i with
  | br n z p off => rw [← exec_pc (exec_br_setPc n z p off s)]; exact exec_br_setPc n z p off s
  | jmp | jsr => rfl
  | jsrr base => rw [← exec_pc (exec_jsrr s base)]; rfl
  | _ => cases hi

/-- The flags, memory, the engine and the host stay as they were in every control transfer (R174). -/
theorem exec_rest_of_isControl (hi : isControl i = true) (h : exec i s = .next t) :
    t.cond = s.cond ∧ SameMemory s t ∧ SameEngine s t ∧ SameHost s t := by
  rw [exec_of_isControl hi] at h
  cases h
  split
  · exact (saveLink_setPc_rest _ s).2.2
  · exact (setPc_rest _ s).2

/-! ## The obligations -/

/-- Settles O25: the transfer leaves the engine at an instruction and pc at the target, so the next step is the fetch
there; a call leaves the return address in R7, from where `JMP R7` takes it. -/
theorem controlTransferHasNoDelaySlot : Obligations.ControlTransferHasNoDelaySlot := by
  intro i s hi hat
  have h := exec_of_isControl hi s
  obtain ⟨hcond, hmem, ⟨he, -, -, -, hservice, -⟩, -⟩ := exec_rest_of_isControl hi h
  refine ⟨_, h, hcond, rfl, hmem, step_of_atInstruction ⟨he.trans hat.1, hservice.trans hat.2⟩, fun hcall => ?_⟩
  rw [if_pos hcall]
  obtain ⟨hlink, -⟩ := saveLink_setPc_rest (pcAfter i s) s
  exact ⟨hlink, fun u hu => ⟨_, exec_jmp u 7#3, hu.trans hlink⟩⟩

/-- Settles O23: BR only moves pc, and goes where `branchTaken_iff` says. -/
theorem branchMovesOnlyPc : Obligations.BranchMovesOnlyPc := by
  refine ⟨fun s n z p off => ⟨_, exec_br_setPc n z p off s, ?_, setPc_rest _ s⟩, fun s off => ?_, fun s off h => ?_⟩
  · exact if_congr (branchTaken_iff n z p s) rfl rfl
  · simp [exec_br, branchTaken_mask_zero]
  · rw [exec_br, branchTaken_mask_all h]
    rfl

/-- Settles O24: JMP only moves pc, the calls save the return address and move pc; JSRR reads its base after the save
(R173). -/
theorem jumpsAndCallsSetPcAndLink : Obligations.JumpsAndCallsSetPcAndLink := fun s base off =>
  ⟨⟨_, exec_jmp s base, rfl, setPc_rest _ s⟩, ⟨_, exec_jsr s off, rfl, saveLink_setPc_rest _ s⟩,
    ⟨_, exec_jsrr s base, reg_saveLink s base, saveLink_setPc_rest _ s⟩⟩

end Sys2Proof.Machine
end

section
/-! PROOFS. The loads LD, LDI and LDR through the device-aware read, LDI's poll of the keyboard, and LEA, which reads
nothing (spec/42_load.md R190 to R194). -/

namespace Sys2Proof.Machine

variable {s t : State}

/-! ## A load through MemRead -/

/-- A load answers with the word that MemRead gives and leaves memory and the queue as that read does (R190, R194). -/
theorem loaded_loadInto (d : Reg) (a : Word) (s : State) : Loaded d a s s (loadInto d a s) :=
  ⟨by simp [loadInto], fun _ hr => reg_loadInto_of_ne a s hr, by simp [loadInto], by simp, fun _ => rfl, rfl,
    by simp [loadInto], by simp [loadInto, SameEngine]⟩

/-- LDI's pointer read takes at most a key and writes at most the device cells, so what the load keeps of the state
after that read it keeps of the state before (R64, R191). -/
theorem loaded_of_loaded_readEffect {d : Reg} {a p : Word}
    (h : Loaded d a (readEffect p s) (readEffect p s) t) : Loaded d a (readEffect p s) s t := by
  simpa [Loaded, SameRegsBut, SameEngine] using h

/-- Settles O26: LD and LDR are one load, LDI a load at the state that its pointer read leaves. -/
theorem loadsWriteTheWordRead : Obligations.LoadsWriteTheWordRead := fun s d base off9 off6 =>
  ⟨⟨_, exec_ld s d off9, loaded_loadInto d _ s⟩, ⟨_, exec_ldr s d base off6, loaded_loadInto d _ s⟩,
    ⟨_, exec_ldi s d off9, loaded_of_loaded_readEffect (loaded_loadInto d _ _)⟩⟩

/-- Settles O28: the address is the result written, and nothing is read. -/
theorem leaWritesTheAddressOnly : Obligations.LeaWritesTheAddressOnly := fun s d off =>
  ⟨_, exec_lea s d off, resultWritten_writeResult d _ s⟩

/-! ## The keyboard poll of LDI -/

/-- Where the pointer cell is not KBSR, LDI is the load at the word in that cell (R65, R191). -/
theorem exec_ldi_of_ne (d : Reg) {off : BitVec 9} (h : addrPc9 off s ≠ s.params.kbsrAddr) :
    exec (.ldi d off) s = .next (loadInto d (s.storeRead (addrPc9 off s)) s) := by
  rw [exec_ldi, memRead_of_ne s h]

/-- A word with bit 15 set, as the ready word is, sets NEGATIVE (R37). -/
theorem flagOf_of_bit15 {v : Word} (h : v.getLsbD 15 = true) : flagOf v = flagNegative := by
  have hv : v ≠ 0x0000#16 := by rintro rfl; cases h
  rw [flagOf_of_msb hv, BitVec.msb_eq_getLsbD_last, if_pos h]

/-- Settles O29: the load is the read of KBSR, which `kbsrReadPollsTheHost` describes with a key and with none. -/
theorem ldiThroughKbsrPollsTheKeyboard : Obligations.LdiThroughKbsrPollsTheKeyboard := by
  intro s d off hparams hpointer hcell
  have hexec : exec (.ldi d off) s = .next (loadInto d s.params.kbsrAddr s) := by
    rw [← hcell]
    exact exec_ldi_of_ne d hpointer
  obtain ⟨hreg, -, hcond, hpc, hmem, hkeys, -⟩ := loaded_loadInto d s.params.kbsrAddr s
  obtain ⟨hkey, hnone, -⟩ := kbsrReadPollsTheHost s hparams
  refine ⟨fun c rest h => ?_, fun rest h => ?_⟩
  · obtain ⟨hstatus, hready, -, hdata, hrest⟩ := hkey c rest h
    rw [hstatus] at hreg hcond hready
    exact ⟨_, hexec, hreg, hcond.trans (flagOf_of_bit15 hready), (hmem _).trans hdata, hkeys.trans hrest, hpc⟩
  · obtain ⟨hstatus, -, hdata, hrest⟩ := hnone rest h
    rw [hstatus] at hreg hcond
    exact ⟨_, hexec, hreg, hcond, (hmem _).trans hdata, hkeys.trans hrest, hpc⟩

end Sys2Proof.Machine
end

section
/-! PROOFS. The stores ST, STI and STR: one plain write each, STI's after the pointer read, and the word that a later
fetch gets there (spec/43_store.md R210 to R213). -/

namespace Sys2Proof.Machine

variable {s t u : State}

/-- MemWrite, the device cells included, is the store with nothing read before it (R66, R213). -/
theorem stored_memWrite (a v : Word) (s : State) : Stored a v s s (s.memWrite a v) := by
  obtain ⟨hregs, hpc, hcond, hengine, hkeys, houtput⟩ := frame_of_other_mem s (s.mem.write a.toNat v)
  have hself : (s.memWrite a v).storeRead a = v := by simp
  have hother : ∀ b, b ≠ a → (s.memWrite a v).storeRead b = s.storeRead b := fun b hb => by simp [hb]
  exact ⟨hself, hother, hkeys, hregs, hcond, hpc, houtput, hengine⟩

/-- A write after STI's pointer read is its store: that read takes at most a key and writes at most the device cells
(R64, R211). -/
theorem stored_readEffect_memWrite (p a v : Word) (s : State) :
    Stored a v (readEffect p s) s ((readEffect p s).memWrite a v) := by
  simpa [Stored, SameRegs, SameEngine] using stored_memWrite a v (readEffect p s)

/-- Away from KBSR, a fetch gets the word stored there (R77, R213). -/
theorem fetch_setPc_of_stored {ea v : Word} (h : Stored ea v u s t) (hea : ea ≠ s.params.kbsrAddr) :
    (fetch (t.setPc ea)).1 = v := by
  obtain ⟨hcell, -, -, -, -, -, -, -, -, -, -, -, hparams⟩ := h
  have hpc : (t.setPc ea).pc ≠ (t.setPc ea).params.kbsrAddr := by rw [setPc_pc, setPc_params, hparams]; exact hea
  rw [fetch_of_ne hpc]
  exact hcell

/-- Settles O30: ST and STR are one write, STI a write at the state that its pointer read leaves, and a fetch reads the
cell written. -/
theorem storesWriteExactlyOneCell : Obligations.StoresWriteExactlyOneCell := fun s r base off9 off6 =>
  ⟨⟨_, exec_st s r off9, stored_memWrite _ _ s⟩, ⟨_, exec_str s r base off6, stored_memWrite _ _ s⟩,
    ⟨_, exec_sti s r off9, stored_readEffect_memWrite _ _ _ s⟩,
    fun _ _ _ _ _ _ _ => fetch_setPc_of_stored⟩

end Sys2Proof.Machine
end

section
/-! PROOFS. The services that get a key, GETC and IN: the key they take, and the wait for one (spec/44_trap.md R232,
R235, R260). -/

namespace Sys2Proof.Machine

variable {s : State} {k : Service} {c : Byte} {rest : List (Option Byte)}

/-! ## With a key to come, and with none -/

/-- How GETC and IN end: the key code `c` is in R0, `rest` is left of the queue, and no service is in progress. -/
def State.endInput (s : State) (c : Byte) (rest : List (Option Byte)) : State :=
  ((s.withKeys rest).setReg charReg (keyWord c)).setService none

/-- The end of GETC and IN writes R0 and the queue and leaves everything else (R231). -/
theorem endInput_frame (hs : s.service = none) (c : Byte) (rest : List (Option Byte)) :
    (s.endInput c rest).reg 0#3 = c.setWidth 16 ∧ SameRegsBut 0#3 s (s.endInput c rest) ∧
      (s.endInput c rest).pc = s.pc ∧ (s.endInput c rest).cond = s.cond ∧ SameMemory s (s.endInput c rest) ∧
      SameEngine s (s.endInput c rest) :=
  ⟨reg_setReg_self _ charReg _, fun _ hr => reg_setReg_of_ne (s.withKeys rest) _ hr, rfl, rfl, fun _ => rfl, rfl, rfl,
    rfl, rfl, hs.symm, rfl⟩

theorem runGetc_of_key (h : takeKey s.keys = some (c, rest)) : runGetc s = s.endInput c rest := by
  rw [runGetc, inGet, h]
  rfl

/-- IN sends the echo before its key is in R0 (R235). -/
theorem runIn_of_key (h : takeKey s.keys = some (c, rest)) : runIn s = (s.putBytes [c]).endInput c rest := by
  rw [runIn, inGet, h]
  rfl

theorem runGetc_of_no_key (h : takeKey s.keys = none) : runGetc s = s.setService (some .getc) := by
  rw [runGetc, inGet, h]

theorem runIn_of_no_key (h : takeKey s.keys = none) : runIn s = s.setService (some .input) := by
  rw [runIn, inGet, h]

/-- Settles O44: GETC ends with the first key of the queue, or waits. -/
theorem getcReadsOneKey : Obligations.GetcReadsOneKey := by
  refine ⟨fun s m c rest hkeys hs => ?_, fun s hkeys => ?_⟩
  · obtain ⟨hchar, hregs, hpc, hcond, hmem, hengine⟩ := endInput_frame hs c rest
    rw [exec_trapGetc, runGetc_of_key (takeKey_eq_some.mpr ⟨m, hkeys⟩)]
    exact ⟨_, rfl, hchar, rfl, hregs, hpc, hcond, hmem, hengine, rfl⟩
  · rw [exec_trapGetc, runGetc_of_no_key (takeKey_eq_none.mpr hkeys)]

/-- Settles O45: after the prompt IN is GETC with an echo. -/
theorem inPromptsReadsAndEchoes : Obligations.InPromptsReadsAndEchoes := by
  refine ⟨fun s m c rest hkeys hs => ?_, fun s hkeys => ?_⟩
  · have hkey : takeKey (s.putBytes Config.inPrompt).keys = some (c, rest) := takeKey_eq_some.mpr ⟨m, hkeys⟩
    have hout : s.output ++ Config.inPrompt.map OutEvent.byte ++ [OutEvent.byte c] =
        s.output ++ (Config.inPrompt ++ [c]).map OutEvent.byte := by simp
    obtain ⟨hchar, hframe⟩ := endInput_frame (s := (s.putBytes Config.inPrompt).putBytes [c]) hs c rest
    rw [exec_trapIn, runIn_of_key hkey]
    exact ⟨_, rfl, hchar, rfl, hout, hframe⟩
  · have hnone : takeKey (s.putBytes Config.inPrompt).keys = none := takeKey_eq_none.mpr hkeys
    rw [exec_trapIn, runIn_of_no_key hnone]

/-! ## The wait -/

/-- A service that waits for a key goes on waiting while there is none (R260). -/
theorem resumeService_of_no_key (hk : k = .getc ∨ k = .input) (h : takeKey s.keys = none) :
    resumeService k s = s.setService (some k) := by
  obtain rfl | rfl := hk
  · exact runGetc_of_no_key h
  · exact runIn_of_no_key h

/-- With a key to come, a service that gets one does the same from the wait as from the start. -/
theorem resumeService_setService_of_key (hk : k = .getc ∨ k = .input) (h : takeKey s.keys = some (c, rest))
    (w : Option Service) : resumeService k (s.setService w) = resumeService k s := by
  obtain rfl | rfl := hk
  · exact (runGetc_of_key (s := s.setService w) h).trans (runGetc_of_key h).symm
  · exact (runIn_of_key (s := s.setService w) h).trans (runIn_of_key h).symm

/-- A key that joins a queue without one is the next key, and the last. -/
theorem takeKey_append_key {ks : List (Option Byte)} (h : ∀ q ∈ ks, q = none) (c : Byte) :
    takeKey (ks ++ [some c]) = some (c, []) :=
  takeKey_eq_some.mpr ⟨ks.length, by rw [← List.eq_replicate_of_mem h]⟩

/-- The next step of an engine inside a service goes on with it. -/
theorem step_setService (he : s.engine = .running) (k : Service) :
    step (s.setService (some k)) = .next (resumeService k (s.setService (some k))) :=
  step_of_service (s := s.setService (some k)) he rfl

/-- A service that finds no key waits; the wait changes nothing; and a key that ends it is read as it would have been at
once (R260, R324). -/
theorem inputWait (hk : k = .getc ∨ k = .input) (he : s.engine = .running) (hkeys : ∀ q ∈ s.keys, q = none)
    (c : Byte) :
    resumeService k s = s.setService (some k) ∧
      step (s.setService (some k)) = .next (s.setService (some k)) ∧
      step (hostKey (some c) (s.setService (some k))) = .next (resumeService k (hostKey (some c) s)) := by
  have hnone : takeKey s.keys = none := takeKey_eq_none.mpr hkeys
  have hkey : takeKey (hostKey (some c) s).keys = some (c, []) := takeKey_append_key hkeys c
  refine ⟨resumeService_of_no_key hk hnone, ?_, ?_⟩
  · rw [step_setService he, resumeService_of_no_key (s := s.setService (some k)) hk hnone]
    rfl
  · rw [← resumeService_setService_of_key hk hkey (some k)]
    exact step_setService (s := hostKey (some c) s) he k

/-- Settles O51: GETC waits from where it is, IN from where its prompt is sent. -/
theorem lateKeyIsReadLikeAnEarlyOne : Obligations.LateKeyIsReadLikeAnEarlyOne := by
  rintro s i c ⟨he, -⟩ (rfl | rfl) hkeys
  · obtain ⟨hwait, hstep, hlate⟩ := inputWait (k := .getc) (.inl rfl) he hkeys c
    exact ⟨_, congrArg Host.Outcome.next hwait, hstep, hlate⟩
  · obtain ⟨hwait, hstep, hlate⟩ := inputWait (k := .input) (s := s.putBytes Config.inPrompt) (.inr rfl) he hkeys c
    exact ⟨_, congrArg Host.Outcome.next hwait, hstep, hlate⟩

end Sys2Proof.Machine
end

section
/-! PROOFS. The services that send: OUT, PUTS, PUTSP and HALT, and the string that has no end (spec/44_trap.md R233,
R234, R236, R237; decision D27). -/

namespace Sys2Proof.Machine

variable {s : State} {a : Word} {ws : List Word} {k : Service} {bytesOf : Word → List Byte}

/-- What appends to the output log alone leaves registers, pc, flags, memory, engine and the host's queue. -/
theorem frame_of_other_output (s : State) (out : List OutEvent) :
    SameRegs s { s with output := out } ∧ ({ s with output := out } : State).pc = s.pc ∧
      ({ s with output := out } : State).cond = s.cond ∧ SameMemory s { s with output := out } ∧
      SameEngine s { s with output := out } ∧ ({ s with output := out } : State).keys = s.keys :=
  ⟨fun _ => rfl, rfl, rfl, fun _ => rfl, ⟨rfl, rfl, rfl, rfl, rfl, rfl⟩, rfl⟩

/-- Bits 7..0 of a word are the word cut to a byte (R68 b). -/
theorem lowByte_eq_setWidth (w : Word) : lowByte w = w.setWidth 8 := (BitVec.setWidth_eq_extractLsb' (by omega)).symm

/-- Settles O46: OUT is one byte appended to the log. -/
theorem outSendsTheLowByte : Obligations.OutSendsTheLowByte := by
  intro s
  refine ⟨_, exec_trapOut s, ?_, frame_of_other_output s _⟩
  rw [putBytes_output, lowByte_eq_setWidth]
  rfl

/-! ## A string that ends -/

/-- The word after a string is zero. -/
theorem storeRead_end_of_stringAt (h : StringAt s a ws) : s.storeRead (a + BitVec.ofNat 16 ws.length) = 0x0000#16 := by
  induction ws generalizing a with
  | nil =>
    have hend : s.storeRead a = 0x0000#16 := h
    simpa using hend
  | cons w ws ih =>
    obtain ⟨-, -, htail⟩ := h
    rw [List.length_cons, Nat.add_comm, BitVec.ofNat_add, ← BitVec.add_assoc]
    exact ih htail

/-- No word of a string is zero. -/
theorem storeRead_ne_zero_of_stringAt {j : Nat} (h : StringAt s a ws) (hj : j < ws.length) :
    s.storeRead (a + BitVec.ofNat 16 j) ≠ 0x0000#16 := by
  induction ws generalizing a j with
  | nil => simp at hj
  | cons w ws ih =>
    obtain ⟨hw, hne, htail⟩ := h
    cases j with
    | zero => simpa [hw] using hne
    | succ j =>
      rw [Nat.add_comm, BitVec.ofNat_add, ← BitVec.add_assoc]
      exact ih htail (by simpa using hj)

/-- A string is shorter than the address space: a longer one would wrap, and its end would be one of its own words. -/
theorem length_lt_of_stringAt (h : StringAt s a ws) : ws.length < addressSpace := by
  by_contra hlen
  have hlen : 65536 ≤ ws.length := by simpa [addressSpace] using hlen
  have hwrap : BitVec.ofNat 16 (ws.length - 65536) = BitVec.ofNat 16 ws.length := by
    apply BitVec.eq_of_toNat_eq
    simp only [BitVec.toNat_ofNat]
    omega
  have hword := storeRead_ne_zero_of_stringAt (j := ws.length - 65536) h (by omega)
  rw [hwrap] at hword
  exact hword (storeRead_end_of_stringAt h)

theorem setService_of_eq {w : Option Service} (h : s.service = w) : s.setService w = s := by
  subst h
  rfl

/-- A service on a string sends the string's characters and one flush, and ends (R234, R236). -/
theorem runString_of_stringAt (k : Service) (bytesOf : Word → List Byte) (h : StringAt s (s.reg charReg) ws)
    (hs : s.service = none) : runString k bytesOf s = (s.putBytes (ws.flatMap bytesOf)).putFlush := by
  rw [runString, walkString_of_stringAt s _ bytesOf ws addressSpace h (length_lt_of_stringAt h), if_pos rfl]
  exact setService_of_eq hs

/-- Settles O47: the string's characters are its words' low bytes. -/
theorem putsSendsTheString : Obligations.PutsSendsTheString := by
  intro s ws hstring hs
  have hchars : (ws.flatMap putsBytes).map OutEvent.byte = ws.map fun w => .byte (w.setWidth 8) := by
    simp only [List.map_flatMap, putsBytes, lowByte_eq_setWidth, List.map_singleton]
    exact List.map_eq_flatMap.symm
  rw [exec_trapPuts, runString_of_stringAt .puts putsBytes hstring hs]
  refine ⟨_, rfl, ?_, frame_of_other_output s _⟩
  rw [putFlush_output, putBytes_output, hchars]

/-- The high byte of a word is zero exactly where the word is below 256. -/
theorem highByte_eq_zero_iff (w : Word) : highByte w = 0x00#8 ↔ w.toNat / 256 = 0 := by
  rw [← BitVec.toNat_inj, highByte, BitVec.extractLsb'_toNat, Nat.shiftRight_eq_div_pow]
  simp only [BitVec.toNat_ofNat]
  omega

/-- The characters that PUTSP sends of a word (R68 c, R236). -/
theorem map_byte_putspBytes (w : Word) : (putspBytes w).map OutEvent.byte =
    .byte (w.setWidth 8) :: (if w.toNat / 256 = 0 then [] else [.byte (w.extractLsb' 8 8)]) := by
  rw [putspBytes, lowByte_eq_setWidth, if_congr (highByte_eq_zero_iff w) rfl rfl]
  split <;> rfl

/-- Settles O48: the string's characters are those of each word. -/
theorem putspSendsThePackedString : Obligations.PutspSendsThePackedString := by
  intro s ws hstring hs
  rw [exec_trapPutsp, runString_of_stringAt .putsp putspBytes hstring hs]
  refine ⟨_, rfl, ?_, frame_of_other_output s _⟩
  rw [putFlush_output, putBytes_output, List.map_flatMap]
  simp only [map_byte_putspBytes]

/-! ## Steps in a row -/

theorem runEvents_step {t : State} (h : step s = .next t) (es : List Event) :
    runEvents (.step :: es) s = runEvents es t := by
  simp [runEvents, runEvent, h]

/-- A state that a step leaves as it is stays so for ever. -/
theorem runEvents_steps_of_fixed (h : step s = .next s) (n : Nat) :
    runEvents (List.replicate n .step) s = some s := by
  induction n with
  | zero => rfl
  | succ n ih => rw [List.replicate_succ, runEvents_step h, ih]

/-- Settles O50: HALT appends to the log and stops the engine, and a stopped engine's step is idle. -/
theorem haltStopsTheEngine : Obligations.HaltStopsTheEngine := by
  intro s
  have hidle := step_of_ne_running (s := haltEngine (s.putBytes Config.haltMessage).putFlush) (by simp)
  exact ⟨_, exec_trapHalt s, rfl, rfl, fun _ => rfl, rfl, rfl, fun _ => rfl, rfl, rfl, rfl, rfl, rfl, rfl,
    runEvents_steps_of_fixed hidle⟩

/-! ## A string without end -/

/-- Where no cell is zero, a service on a string sends something and goes on (decision D27). -/
theorem runString_endless (k : Service) (h : ∀ b : Word, s.storeRead b ≠ 0x0000#16)
    (hbytes : ∀ w, bytesOf w ≠ []) :
    ∃ bs, bs ≠ [] ∧ runString k bytesOf s = (s.putBytes bs).setService (some k) := by
  have hfirst : s.mem.read (s.reg charReg).toNat ≠ 0x0000#16 := h (s.reg charReg)
  refine ⟨_, ?_, if_neg (by simp [walkString_endless s _ bytesOf addressSpace h])⟩
  rw [addressSpace, walkString, if_neg hfirst]
  exact List.append_ne_nil_of_left_ne_nil (hbytes _) _

/-- PUTS and PUTSP send at least one character of every word. -/
theorem resumeService_endless (hk : k = .puts ∨ k = .putsp) (h : ∀ b : Word, s.storeRead b ≠ 0x0000#16) :
    ∃ bs, bs ≠ [] ∧ resumeService k s = (s.putBytes bs).setService (some k) := by
  obtain rfl | rfl := hk
  · exact runString_endless .puts h fun w => List.cons_ne_nil _ _
  · exact runString_endless .putsp h fun w => by unfold putspBytes; split <;> simp

/-- Each of any number of steps inside PUTS or PUTSP sends at least one character more, and does nothing else. -/
theorem runEvents_endless (hk : k = .puts ∨ k = .putsp) (he : s.engine = .running)
    (h : ∀ b : Word, s.storeRead b ≠ 0x0000#16) (n : Nat) (sent : List Byte) :
    ∃ bs, sent.length + n ≤ bs.length ∧
      runEvents (List.replicate n .step) ((s.putBytes sent).setService (some k)) =
        some ((s.putBytes bs).setService (some k)) := by
  induction n generalizing sent with
  | zero => exact ⟨sent, le_rfl, rfl⟩
  | succ n ih =>
    obtain ⟨round, hround, hresume⟩ := resumeService_endless (s := (s.putBytes sent).setService (some k)) hk h
    have hstep : step ((s.putBytes sent).setService (some k)) =
        .next ((s.putBytes (sent ++ round)).setService (some k)) := by
      rw [step_setService (s := s.putBytes sent) he, hresume]
      simp [State.putBytes, State.setService]
    obtain ⟨bs, hlen, hrun⟩ := ih (sent ++ round)
    have hpos := List.length_pos_iff.mpr hround
    rw [List.length_append] at hlen
    exact ⟨bs, by omega, by rw [List.replicate_succ, runEvents_step hstep, hrun]⟩

/-- The service that PUTS or PUTSP starts is the one that its later steps go on with. -/
theorem exec_eq_resumeService {i : Instr} (hi : i = .trapPuts ∨ i = .trapPutsp) (s : State) :
    exec i s = .next (resumeService (if i = .trapPuts then .puts else .putsp) s) := by
  obtain rfl | rfl := hi <;> rfl

/-- Settles O49: the first round is the instruction's, and every step adds a round. -/
theorem endlessStringNeverEnds : Obligations.EndlessStringNeverEnds := by
  intro s i n ⟨he, _⟩ hi hfull
  have hk : (if i = .trapPuts then Service.puts else .putsp) = .puts ∨
      (if i = .trapPuts then Service.puts else .putsp) = .putsp := ite_eq_or_eq _ _ _
  obtain ⟨first, hfirst, hresume⟩ := resumeService_endless hk hfull
  obtain ⟨bs, hlen, hrun⟩ := runEvents_endless hk he hfull n first
  have hpos := List.length_pos_iff.mpr hfirst
  have hmore : n < (bs.map OutEvent.byte).length := by rw [List.length_map]; omega
  rw [exec_eq_resumeService hi, hresume]
  exact ⟨_, _, rfl, hrun, he, rfl, rfl, fun _ => rfl, rfl, rfl, bs.map .byte, rfl, hmore, by simp⟩

end Sys2Proof.Machine
end

section
/-! PROOFS. The frame of every service (spec/44_trap.md R231, R237) and the host's channels (R261, R262): what a flush
makes visible, and that a step only appends to the output and only takes keys from the front. -/

namespace Sys2Proof.Machine

variable {i : Instr} {s t u : State}

/-! ## The frame of a service -/

/-- A service is well-formed, takes no fault, accesses no data and sets no flag; it writes R0 in GETC and IN only. -/
theorem of_isService (hi : isService i = true) :
    i.wellFormed = true ∧ isFaulting i = false ∧ isDataAccess i = false ∧ flagReg i = none ∧
      (∀ s, pcAfter i s = s.pc) ∧ writesRegs i = if i = .trapGetc ∨ i = .trapIn then [0#3] else [] := by
  cases i with
  | trapGetc | trapOut | trapPuts | trapIn | trapPutsp | trapHalt => exact ⟨rfl, rfl, rfl, rfl, fun _ => rfl, rfl⟩
  | _ => cases hi

/-- Settles O43: the lemma of each field over all instructions, at a service's row of the tables. -/
theorem servicesWriteOnlyR0 : Obligations.ServicesWriteOnlyR0 := by
  intro i s hi
  obtain ⟨hwf, hfaulting, haccess, hflag, hpc, hwrites⟩ := of_isService hi
  obtain ⟨t, h⟩ := exec_next_of_wellFormed hwf s
  obtain ⟨hengine, hcause, hfaultPc, hfaultIr⟩ := exec_engine_of_not_faulting hfaulting h
  have hcond := exec_cond h
  rw [hflag] at hcond
  refine ⟨t, h, fun r hr => exec_reg_of_notMem h ?_, exec_mem_of_not_dataAccess haccess h, hcond,
    (exec_pc h).trans (hpc s), hcause, hfaultPc, hfaultIr, exec_params h, hengine⟩
  rw [hwrites]
  split
  · next hread =>
      rw [List.mem_singleton]
      exact fun hr0 => hread.elim (hr hr0).1 (hr hr0).2
  · exact List.not_mem_nil

/-! ## What a flush makes visible -/

theorem outBytes_append_flush (log : List OutEvent) : outBytes (log ++ [.flush]) = outBytes log := by
  induction log with
  | nil => rfl
  | cons e log ih => cases e <;> simp [outBytes, ih]

theorem outBytes_append_byte (log : List OutEvent) (b : Byte) : outBytes (log ++ [.byte b]) = outBytes log ++ [b] := by
  induction log with
  | nil => rfl
  | cons e log ih => cases e <;> simp [outBytes, ih]

theorem hasFlush_append_flush (log : List OutEvent) : hasFlush (log ++ [.flush]) = true := by
  induction log with
  | nil => rfl
  | cons e log ih => cases e <;> simp [hasFlush, ih]

theorem hasFlush_append_byte (log : List OutEvent) (b : Byte) : hasFlush (log ++ [.byte b]) = hasFlush log := by
  induction log with
  | nil => rfl
  | cons e log ih => cases e <;> simp [hasFlush, ih]

/-- A flush makes every byte before it visible (R261). -/
theorem flushedBytes_append_flush (log : List OutEvent) : flushedBytes (log ++ [.flush]) = outBytes log := by
  induction log with
  | nil => rfl
  | cons e log ih => cases e <;> simp [flushedBytes, outBytes, hasFlush_append_flush, ih]

/-- A byte that no flush follows is not yet to be visible, and makes no other visible (R262, decision D22). -/
theorem flushedBytes_append_byte (log : List OutEvent) (b : Byte) :
    flushedBytes (log ++ [.byte b]) = flushedBytes log := by
  induction log with
  | nil => rfl
  | cons e log ih => cases e <;> simp [flushedBytes, hasFlush_append_byte, ih]

/-- In a log that ends with a flush all bytes are visible. -/
theorem flushedBytes_putFlush (s : State) : flushedBytes s.putFlush.output = outBytes s.putFlush.output := by
  rw [putFlush_output, flushedBytes_append_flush, outBytes_append_flush]

/-- PUTS and PUTSP flush where they end (R234, R236). -/
theorem flushedBytes_runString {k : Service} {bytesOf : Word → List Byte}
    (h : (runString k bytesOf s).service = none) :
    flushedBytes (runString k bytesOf s).output = outBytes (runString k bytesOf s).output := by
  obtain ⟨bs, hrun⟩ | ⟨bs, hrun⟩ := runString_cases s k bytesOf
  · rw [hrun]
    exact flushedBytes_putFlush (s.putBytes bs)
  · rw [hrun] at h
    cases h

/-- Settles O60: HALT, PUTS and PUTSP end with a flush, OUT with a byte. -/
theorem flushMakesAllBytesVisible : Obligations.FlushMakesAllBytesVisible := by
  refine ⟨flushedBytes_append_flush, fun s t h => ?_, fun i s t hi h hs => ?_, fun s t h => ?_⟩
  · cases h
    exact flushedBytes_putFlush (s.putBytes Config.haltMessage)
  · obtain rfl | rfl := hi
    · cases h; exact flushedBytes_runString hs
    · cases h; exact flushedBytes_runString hs
  · cases h
    rw [← lowByte_eq_setWidth]
    exact ⟨flushedBytes_append_byte s.output _, outBytes_append_byte s.output _⟩

/-! ## The channels along a step -/

/-- From `s` to `t` the output log has only grown at its end, and keys have only been taken from the front of the queue
(R261, R262). -/
def ChannelsAdvance (s t : State) : Prop := s.output <+: t.output ∧ t.keys <:+ s.keys

theorem ChannelsAdvance.of_sameHost (h : SameHost s t) : ChannelsAdvance s t := by
  obtain ⟨hkeys, hout⟩ := h
  exact ⟨by rw [hout], by rw [hkeys]⟩

theorem ChannelsAdvance.trans (h : ChannelsAdvance s t) (h' : ChannelsAdvance t u) : ChannelsAdvance s u := by
  obtain ⟨hout, hkeys⟩ := h
  obtain ⟨hout', hkeys'⟩ := h'
  exact ⟨hout.trans hout', hkeys'.trans hkeys⟩

/-- A poll takes at most the first entry of the queue (R64). -/
theorem channelsAdvance_readEffect (a : Word) (s : State) : ChannelsAdvance s (readEffect a s) := by
  refine ⟨by simp, ?_⟩
  unfold readEffect
  split
  · obtain ⟨c, rest, h, hpoll⟩ | ⟨rest, h | ⟨h, rfl⟩, hpoll⟩ := pollKeyboard_cases s <;> simp [h, hpoll]
  · exact List.suffix_rfl

theorem channelsAdvance_loadInto (d : Reg) (a : Word) (s : State) : ChannelsAdvance s (loadInto d a s) :=
  channelsAdvance_readEffect a s

theorem channelsAdvance_putBytes (s : State) (bs : List Byte) : ChannelsAdvance s (s.putBytes bs) :=
  ⟨⟨_, rfl⟩, List.suffix_rfl⟩

theorem channelsAdvance_putFlush (s : State) : ChannelsAdvance s s.putFlush :=
  ⟨⟨_, rfl⟩, List.suffix_rfl⟩

/-- The key that GETC and IN take stands at the front, after moments without one. -/
theorem channelsAdvance_endInput {c : Byte} {rest : List (Option Byte)} (h : takeKey s.keys = some (c, rest)) :
    ChannelsAdvance s (s.endInput c rest) := by
  obtain ⟨n, hkeys⟩ := takeKey_eq_some.mp h
  exact ⟨⟨[], List.append_nil _⟩, List.replicate n none ++ [some c], by simp [State.endInput, hkeys]⟩

theorem channelsAdvance_runGetc (s : State) : ChannelsAdvance s (runGetc s) := by
  cases h : takeKey s.keys with
  | none =>
    rw [runGetc_of_no_key h]
    exact .of_sameHost ⟨rfl, rfl⟩
  | some key =>
    rw [runGetc_of_key h]
    exact channelsAdvance_endInput h

theorem channelsAdvance_runIn (s : State) : ChannelsAdvance s (runIn s) := by
  cases h : takeKey s.keys with
  | none =>
    rw [runIn_of_no_key h]
    exact .of_sameHost ⟨rfl, rfl⟩
  | some key =>
    rw [runIn_of_key h]
    exact (channelsAdvance_putBytes s [key.1]).trans (channelsAdvance_endInput h)

theorem channelsAdvance_runString (k : Service) (bytesOf : Word → List Byte) (s : State) :
    ChannelsAdvance s (runString k bytesOf s) := by
  obtain ⟨bs, h⟩ | ⟨bs, h⟩ := runString_cases s k bytesOf <;> rw [h]
  · exact (channelsAdvance_putBytes s bs).trans (channelsAdvance_putFlush _)
  · exact channelsAdvance_putBytes s bs

theorem channelsAdvance_resumeService (k : Service) (s : State) : ChannelsAdvance s (resumeService k s) := by
  cases k with
  | getc => exact channelsAdvance_runGetc s
  | input => exact channelsAdvance_runIn s
  | puts => exact channelsAdvance_runString .puts putsBytes s
  | putsp => exact channelsAdvance_runString .putsp putspBytes s

/-- Reads, the services and nothing else reach the host. -/
theorem channelsAdvance_exec (h : exec i s = .next t) : ChannelsAdvance s t := by
  cases i with
  | ld | ldr => cases h; exact channelsAdvance_loadInto _ _ s
  | ldi => cases h; exact (channelsAdvance_readEffect _ s).trans (channelsAdvance_loadInto _ _ _)
  | sti => cases h; exact channelsAdvance_readEffect _ s
  | trapGetc => cases h; exact channelsAdvance_runGetc s
  | trapIn => cases h; exact (channelsAdvance_putBytes s _).trans (channelsAdvance_runIn _)
  | trapPuts => cases h; exact channelsAdvance_runString .puts putsBytes s
  | trapPutsp => cases h; exact channelsAdvance_runString .putsp putspBytes s
  | trapOut => cases h; exact channelsAdvance_putBytes s _
  | trapHalt => cases h; exact (channelsAdvance_putBytes s _).trans (channelsAdvance_putFlush _)
  | rti | reserved | trapUndefined =>
    obtain ⟨c, -, -, rfl⟩ := exec_of_isFaulting rfl h
    exact .of_sameHost ⟨rfl, rfl⟩
  | br n z p off => rw [exec_br_setPc] at h; cases h; exact .of_sameHost ⟨rfl, rfl⟩
  | _ => cases h; exact .of_sameHost ⟨rfl, rfl⟩

/-- Settles O58: a fetch and its instruction, a service that goes on, or nothing. -/
theorem outputGrowsAndKeysAreTakenInOrder : Obligations.OutputGrowsAndKeysAreTakenInOrder := by
  intro s t hst
  have hadvance : ChannelsAdvance s t := by
    obtain ⟨-, -, hex⟩ | ⟨k, -, -, hres⟩ | ⟨-, hidle⟩ := step_cases s
    · have hfetch : ChannelsAdvance s (fetch s).2 := channelsAdvance_readEffect s.pc s
      exact hfetch.trans (channelsAdvance_exec (hex.symm.trans hst))
    · cases hres.symm.trans hst
      exact channelsAdvance_resumeService k s
    · cases hidle.symm.trans hst
      exact .of_sameHost ⟨rfl, rfl⟩
  obtain ⟨⟨more, hmore⟩, taken, htaken⟩ := hadvance
  exact ⟨⟨more, hmore.symm⟩, taken, htaken.symm⟩

end Sys2Proof.Machine
end

section
/-! PROOFS. RTI, the reserved opcode and TRAP with an undefined vector: the fault each takes (spec/45_reserved.md R270,
R271, spec/44_trap.md R238, spec/60_exceptions.md R301, R302). -/

namespace Sys2Proof.Machine

/-- A raised fault writes the record, stops the engine and leaves the rest (R302). -/
theorem faultTaken_raiseFault (c : FaultCause) (ir : Word) (s : State) : FaultTaken c.code ir s (raiseFault c ir s) :=
  ⟨rfl, rfl, rfl, rfl, rfl, reg_raiseFault s c ir, rfl, storeRead_raiseFault s c ir, ⟨rfl, rfl⟩, rfl, rfl⟩

/-! ## The words recorded -/

theorem place_at_zero {n : Nat} (v : BitVec n) : place v 0 = v.setWidth 16 := BitVec.shiftLeft_zero _

theorem encode_rti (rest : BitVec 12) : encode (.rti rest) = 0x8000#16 ||| rest.setWidth 16 := by
  rw [← place_at_zero rest]
  rfl

theorem encode_reserved (rest : BitVec 12) : encode (.reserved rest) = 0xD000#16 ||| rest.setWidth 16 := by
  rw [← place_at_zero rest]
  rfl

theorem encode_trapUndefined (high : BitVec 4) (v : Byte) :
    encode (.trapUndefined high v) = 0xF000#16 ||| high.setWidth 16 <<< 8 ||| v.setWidth 16 := by
  rw [← place_at_zero v]
  rfl

/-! ## The faults -/

/-- Settles O52: each of the three raises its own fault with its own word, and a service's vector is refused. -/
theorem faultsAreTakenAsDescribed : Obligations.FaultsAreTakenAsDescribed := by
  intro s rest high v
  refine ⟨⟨_, exec_rti s rest, ?_⟩, ⟨_, exec_reserved s rest, ?_⟩,
    fun hv => ⟨_, exec_trapUndefined_of_wellFormed s hv, ?_⟩, fun hv => ?_⟩
  · rw [← encode_rti]
    exact faultTaken_raiseFault .rti _ s
  · rw [← encode_reserved]
    exact faultTaken_raiseFault .reserved _ s
  · rw [← encode_trapUndefined]
    exact faultTaken_raiseFault .badTrap _ s
  · rw [exec_trapUndefined, if_pos hv]

end Sys2Proof.Machine
end

section
/-! PROOFS. What leaves an engine state, and what `status` says of it (spec/10_state.md R40, spec/44_trap.md R260,
spec/60_exceptions.md R306, R324). -/

namespace Sys2Proof.Machine

variable {s : State} {k : Service} {op : HostOp}

/-! ## The host, outside Ready -/

/-- Outside Ready the host's one way in, beside `reset`, is its input queue (R341, decision D25). -/
theorem hostApply_of_ne_ready (he : s.engine ≠ .ready) (hop : op ≠ .reset) :
    hostApply op s = s ∨ ∃ key, op = .key key ∧ hostApply op s = hostKey key s := by
  cases op with
  | reset => exact absurd rfl hop
  | start => exact .inl (hostStart_of_ne_ready he)
  | preload bytes => exact .inl (congrArg Prod.snd (if_neg he : preload bytes s = (.ignored, s)))
  | preloadBroken bytes stored =>
    exact .inl (congrArg Prod.snd (if_neg he : preloadBroken bytes stored s = (.ignored, s)))
  | key key => exact .inr ⟨key, rfl, rfl⟩

/-- A host interaction that is neither `reset` nor a key code leaves a Running engine's state as it is, but for moments
without a key that join the queue. -/
theorem hostApply_of_no_key (he : s.engine = .running) (hop : op ≠ .reset) (hkey : ∀ c, op ≠ .key (some c)) :
    hostApply op s = s ∨ hostApply op s = hostKey none s := by
  obtain hsame | ⟨_ | c, hop', happly⟩ := hostApply_of_ne_ready (s := s) (by simp [he]) hop
  · exact .inl hsame
  · exact .inr happly
  · exact absurd hop' (hkey c)

/-! ## The input wait -/

theorem exists_waiting_service (hs : s.service = some .getc ∨ s.service = some .input) :
    ∃ k : Service, (k = .getc ∨ k = .input) ∧ s.service = some k := by
  obtain hs | hs := hs
  · exact ⟨_, .inl rfl, hs⟩
  · exact ⟨_, .inr rfl, hs⟩

/-- Without a key to come a step leaves the waiting engine as it is (R260, log entry 8). -/
theorem step_of_wait (hk : k = .getc ∨ k = .input) (he : s.engine = .running) (hs : s.service = some k)
    (hkeys : ∀ q ∈ s.keys, q = none) : step s = .next s := by
  rw [step_of_service he hs, resumeService_of_no_key hk (takeKey_eq_none.mpr hkeys), setService_of_eq hs]

/-- A moment without a key adds no key to a queue that holds none. -/
theorem keys_hostKey_none (hkeys : ∀ q ∈ s.keys, q = none) : ∀ q ∈ (hostKey none s).keys, q = none := by
  simpa [or_imp, forall_and] using hkeys

theorem exists_takeKey_of_mem {c : Byte} {ks : List (Option Byte)} (h : some c ∈ ks) :
    ∃ d rest, takeKey ks = some (d, rest) := by
  cases htake : takeKey ks with
  | none => cases takeKey_eq_none.mp htake _ h
  | some taken => exact ⟨taken.1, taken.2, rfl⟩

/-- A service that gets its key ends, and the engine is at its next instruction. -/
theorem atInstruction_resumeService {c : Byte} {rest : List (Option Byte)} (hk : k = .getc ∨ k = .input)
    (he : s.engine = .running) (h : takeKey s.keys = some (c, rest)) : AtInstruction (resumeService k s) := by
  refine ⟨by rwa [resumeService_engine], ?_⟩
  obtain rfl | rfl := hk
  · exact congrArg State.service (runGetc_of_key h)
  · exact congrArg State.service (runIn_of_key h)

/-- Settles O55: outside Ready the host's way in is its queue, which only the wait looks at, and for key codes only. -/
theorem terminalStatesAreLeftByResetOnly : Obligations.TerminalStatesAreLeftByResetOnly := by
  refine ⟨fun s he => ?_, fun s he hs hkeys => ?_, fun s he hs ⟨c, hc⟩ => ?_, fun s => ⟨rfl, rfl⟩⟩
  · have ⟨hrunning, hready⟩ : s.engine ≠ .running ∧ s.engine ≠ .ready := by obtain he | he := he <;> simp [he]
    refine ⟨step_of_ne_running hrunning, fun op hop => ?_⟩
    obtain h | ⟨key, -, h⟩ := hostApply_of_ne_ready hready hop <;> rw [h]
    · exact ⟨rfl, rfl⟩
    · exact ⟨hostKey_engine s key, hostKey_mem s key⟩
  · obtain ⟨k, hk, hs⟩ := exists_waiting_service hs
    refine ⟨step_of_wait hk he hs hkeys, fun op hop hkey => ?_⟩
    obtain h | h := hostApply_of_no_key he hop hkey <;> rw [h]
    · exact ⟨step_of_wait hk he hs hkeys, rfl⟩
    · exact ⟨step_of_wait (s := hostKey none s) hk he hs (keys_hostKey_none hkeys), hostKey_service s none⟩
  · obtain ⟨k, hk, hs⟩ := exists_waiting_service hs
    obtain ⟨d, rest, htake⟩ := exists_takeKey_of_mem hc
    exact ⟨_, step_of_service he hs, atInstruction_resumeService hk he htake⟩

/-! ## status -/

/-- Two engine states never share a code (R306). -/
theorem engineCode_injective : Function.Injective engineCode := by
  intro e e' h
  match e, e', h with
  | .ready, .ready, _ | .running, .running, _ | .halted, .halted, _ | .faulted, .faulted, _ => rfl

theorem status_of_faulted (h : s.engine = .faulted) :
    status s = ⟨engineCode .faulted, some ⟨s.faultCause, s.faultPc, s.faultIr⟩⟩ := by
  rw [status, if_pos h, h]

theorem status_of_ne_faulted {e : Engine} (h : s.engine = e) (he : e ≠ .faulted) :
    status s = ⟨engineCode e, none⟩ := by
  rw [status, h, if_neg he]

/-- Settles O57: the record is there in Faulted only, and the codes are distinct. -/
theorem statusTellsFaultFromHalt : Obligations.StatusTellsFaultFromHalt :=
  ⟨fun _ h => status_of_ne_faulted h (by decide), fun _ h => status_of_ne_faulted h (by decide),
    fun _ h => status_of_ne_faulted h (by decide), fun _ h => status_of_faulted h,
    fun _ _ => engineCode_injective.eq_iff⟩

end Sys2Proof.Machine
end

section
/-! PROOFS. The reset values (spec/10_state.md R46, spec/70_reset_and_hazards.md R340), the fetch at KBSR (R352,
spec/20_memory.md R64), and the run over memory that is zero throughout (R344, R110, R35). -/

namespace Sys2Proof.Machine

variable {s : State}

/-! ## Reset -/

/-- Every general register starts at GPR_RESET (R46, decision D4). -/
@[simp] theorem reg_resetWith (p : Config.Params) (r : Reg) : (State.resetWith p).reg r = p.gprReset :=
  Vector.getElem_replicate r.isLt

/-- Every cell starts at 0x0000 (R46). -/
@[simp] theorem storeRead_resetWith (p : Config.Params) (a : Word) : (State.resetWith p).storeRead a = 0x0000#16 := rfl

/-- Settles O13: `reset` gives the state of `State.resetWith` at the machine's parameters, but for the host's channels. -/
theorem resetGivesTheResetValues : Obligations.ResetGivesTheResetValues :=
  ⟨fun s => ⟨rfl, rfl, storeRead_resetWith s.params, reg_resetWith s.params, rfl, rfl, rfl, rfl, rfl, rfl, rfl, rfl⟩,
    rfl, reg_resetWith defaultParams, rfl, rfl, rfl, rfl⟩

/-! ## The words 0x0000 and 0x8000 -/

/-- The word 0x0000 is BR with the empty mask, which does nothing (R110, R170). -/
theorem exec_decode_zero (s : State) : exec (decode 0x0000#16) s = .next s := by
  have hdecode : decode 0x0000#16 = .br 0#1 0#1 0#1 0#9 := by decide
  simp [hdecode, exec_br, branchTaken_mask_zero]

/-- The word 0x8000 is RTI, which takes its fault (R270). -/
theorem exec_decode_rti (s : State) : exec (decode 0x8000#16) s = .next (raiseFault .rti 0x8000#16 s) := by
  have hdecode : decode 0x8000#16 = .rti 0#12 := by decide
  have hencode : encode (.rti 0#12) = 0x8000#16 := by decide
  rw [hdecode, exec_rti, hencode]

/-- A step that fetches 0x0000 is the fetch alone. -/
theorem step_of_fetch_zero (hat : AtInstruction s) (h : (fetch s).1 = 0x0000#16) : step s = .next (fetch s).2 := by
  rw [step_of_atInstruction hat, h, exec_decode_zero]

/-! ## The fetch at KBSR -/

theorem atInstruction_fetch (hat : AtInstruction s) : AtInstruction (fetch s).2 := by
  simpa [AtInstruction] using hat

theorem sameRegs_fetch (s : State) : SameRegs s (fetch s).2 := reg_congr (by simp)

/-- Settles O36: the fetch is the read of KBSR, which `kbsrReadPollsTheHost` describes with a key and with none. -/
theorem fetchAtKbsrPolls : Obligations.FetchAtKbsrPolls := by
  intro s hparams hat hpc
  obtain ⟨hkey, hnone, -⟩ := kbsrReadPollsTheHost s hparams
  obtain ⟨-, hnext, hcond, -, -, -, -, -, -, hkept⟩ := fetch_frame s
  have hstep := step_of_atInstruction hat
  rw [← hpc] at hkey hnone ⊢
  refine ⟨fun c rest h => ?_, fun c rest h hrti => ?_, fun rest h => ?_⟩
  · obtain ⟨hword, -, hstatus, hdata, hrest⟩ := hkey c rest h
    have hfetched : (fetch s).1 = s.params.kbsrReady := hword
    rw [hfetched] at hstep
    exact ⟨_, hstep, atInstruction_fetch hat, hnext, hstatus, hdata, hrest, sameRegs_fetch s, hcond, hkept⟩
  · obtain ⟨hword, -, -, hdata, hrest⟩ := hkey c rest h
    have hfetched : (fetch s).1 = 0x8000#16 := hword.trans hrti
    rw [hfetched, exec_decode_rti] at hstep
    exact ⟨_, hstep, rfl, rfl, by simp, rfl, hnext, hdata, hrest⟩
  · obtain ⟨hword, hstatus, -, hrest⟩ := hnone rest h
    exact ⟨_, step_of_fetch_zero hat hword, atInstruction_fetch hat, hnext, hstatus, sameRegs_fetch s, hcond, hrest⟩

/-! ## Zero memory -/

/-- Memory is zero throughout and the host has no key to come. -/
def ZeroAndKeyless (s : State) : Prop := (∀ a : Word, s.storeRead a = 0x0000#16) ∧ ∀ q ∈ s.keys, q = none

/-- A poll that finds no key writes 0x0000 to KBSR, which held it (R64). -/
theorem zeroAndKeyless_readEffect (a : Word) (h : ZeroAndKeyless s) : ZeroAndKeyless (readEffect a s) := by
  obtain ⟨hmem, hkeys⟩ := h
  obtain ⟨-, htaken⟩ := channelsAdvance_readEffect a s
  refine ⟨fun b => ?_, fun q hq => hkeys q (htaken.subset hq)⟩
  by_cases ha : a = s.params.kbsrAddr
  · obtain ⟨rest, hrest⟩ := exists_no_key (s := s) fun c rest h => by simpa [h] using hkeys (some c)
    simp [ha, readEffect_kbsr, pollKeyboard_of_no_key hrest, hmem]
  · rw [readEffect_of_ne s ha, hmem]

/-- On zero memory with no key to come a step moves pc over one word and leaves it so (R344, R110). -/
theorem step_of_zeroAndKeyless (hat : AtInstruction s) (h : ZeroAndKeyless s) :
    step s = .next (fetch s).2 ∧ ZeroAndKeyless (fetch s).2 := by
  have hread := zeroAndKeyless_readEffect s.pc h
  exact ⟨step_of_fetch_zero hat (hread.1 s.pc), hread⟩

/-- Settles O37, by induction on the number of steps, each of which is a fetch. -/
theorem zeroMemoryRunsOnForever : Obligations.ZeroMemoryRunsOnForever := by
  intro k s hat hmem hkeys
  induction k generalizing s with
  | zero => exact ⟨s, rfl, hat, by simp, hmem, fun _ => rfl, rfl, rfl⟩
  | succ k ih =>
    obtain ⟨hstep, hmem', hkeys'⟩ := step_of_zeroAndKeyless hat ⟨hmem, hkeys⟩
    obtain ⟨t, hrun, hatt, hpc, hmemt, hregs, hcond, hout⟩ := ih (fetch s).2 (atInstruction_fetch hat) hmem' hkeys'
    obtain ⟨-, hpc', hcond', -, -, -, -, hout', -⟩ := fetch_frame s
    refine ⟨t, by rw [List.replicate_succ, runEvents_step hstep, hrun], hatt, ?_, hmemt,
      fun r => (hregs r).trans (sameRegs_fetch s r), hcond.trans hcond', hout.trans hout'⟩
    rw [hpc, hpc', BitVec.add_assoc, Nat.add_comm k 1, BitVec.ofNat_add]

end Sys2Proof.Machine
end
